-- ==== Sys2Proof/Word.lean ====
section
/-! DEFINITION. The word types of the RDCPU (00_scope.md R5, R9): every register is 16 bits wide, RAM is made of octets. -/

namespace Sys2Proof

/-- A 16-bit word: a register, an address while it is computed, an instruction word (R5, R20). -/
abbrev Word := BitVec 16

/-- An octet, the addressable unit of RAM (R5). -/
abbrev Byte := BitVec 8

end Sys2Proof
end

