-- ==== Sys2Proof/Config.lean ====
section
/-! DEFINITION. The parameters the spec leaves open (00_scope.md R6), as the type `Config` (their default values are
`defaultConfig` in Decode.lean), and the free values: opaque constants, of which nothing can be proved. -/

namespace Sys2Proof

/-- `CLASH_POLICY` (R100): which of two lines keeps an opcode value that the source gives twice. -/
inductive ClashPolicy where
  | firstListed
  | laterListed
  | refuse
deriving DecidableEq, Repr

/-- `ILLEGAL_POLICY` (R105): its only value. -/
inductive IllegalPolicy where
  | refuse
deriving DecidableEq, Repr

/-- `BYTE_ORDER` (R51). -/
inductive ByteOrder where
  | little
  | big
deriving DecidableEq, Repr

/-- `MISALIGNED_POLICY` (R57). -/
inductive MisalignedPolicy where
  | allow
  | refuse
deriving DecidableEq, Repr

/-- `LOADB_HIGH` (R122): what LOAD.B leaves in bits 15 to 8 of its destination. -/
inductive LoadbHigh where
  | zero
  | preserve
  | any
deriving DecidableEq, Repr

/-- `GETPC_OFFSET` (R207): 2 or 4 over the address of the GETPC word. -/
inductive GetpcOffset where
  | two
  | four
deriving DecidableEq, Repr

/-- `SLEEP_WAKE` (R206). -/
inductive SleepWake where
  | onlyWhenTaken
  | anyIntLine
deriving DecidableEq, Repr

/-- `IO_DATA_WIDTH` (R60). -/
inductive IoDataWidth where
  | eight
  | sixteen
deriving DecidableEq, Repr

/-- `HALT_CONVENTION` (R287): the default convention and the others that R287 names, the jump to self and the write to an
agreed address, of RAM or a device (`writeTo`) or of the IO space (`outTo`) (log 13). -/
inductive HaltConvention where
  | sleepUnwakeable
  | jumpToSelf
  | writeTo (a : Word)
  | outTo (port : Byte)
deriving DecidableEq, Repr

/-- What `MEMMAP` calls an address (R6, R62, R66). -/
inductive MemKind where
  | ram
  | rom
  | device
  | empty
deriving DecidableEq, Repr

/-- One line of `MEMMAP`: `size` octets from `base` on. -/
structure Region where
  base : Nat
  size : Nat
  kind : MemKind
deriving DecidableEq, Repr

/-- The lines of the clashing opcodes (R101, R102), the instruction forms that an `EXTRA_OPCODES` entry can name. -/
inductive ClashForm where
  | rotrR
  | rotrL
  | mulR
  | mulL
  | divR
  | divL
  | getflags
  | bbits
  | bclear
  | inpR
  | inpL
  | outR
  | outL
  | setyR
deriving DecidableEq, Repr

/-- An opcode value of one of the formats 2P, 1P, 1L, 0P: `w[15:8]`, `w[15:4]`, `w[11:9]`, the whole word (R96 to R99). -/
inductive ExtraOpcode where
  | twoParam (op : BitVec 8)
  | oneParam (op : BitVec 12)
  | longLit (op : BitVec 3)
  | noParam (w : Word)
deriving DecidableEq, Repr

/-- An entry of `EXTRA_OPCODES` (R103): the form gets the opcode value. -/
structure ExtraEntry where
  opcode : ExtraOpcode
  form : ClashForm
deriving DecidableEq, Repr

/-- The parameters of R6. `extra` is `EXTRA_OPCODES` (R103). -/
structure Config where
  clash : ClashPolicy
  extra : List ExtraEntry
  illegal : IllegalPolicy
  byteOrder : ByteOrder
  misaligned : MisalignedPolicy
  loadbHigh : LoadbHigh
  muldivSigned : Bool
  getpcOffset : GetpcOffset
  sleepWake : SleepWake
  ioDataWidth : IoDataWidth
  memMap : List Region
  halt : HaltConvention
deriving DecidableEq, Repr

/-- Free value: the octet the platform's image holds at an address that nothing has listed, unknown and fixed for the run
(R45, R281; log 14). -/
opaque Config.ramImage : Nat → Byte

/-- Free value: the INT line (true is low, a request) at a step for which no sample is listed (R248; log 15). -/
opaque Config.freeIntLow : Nat → Bool

/-- Free value: the data bus at a step for which no sample is listed (R248; log 15). -/
opaque Config.freeDataBus : Nat → Word

/-- Free value: bits 15 to 8 after a LOAD.B at a given step, under `LOADB_HIGH = any` (R122; log 7). -/
opaque Config.freeHighByte : Nat → Byte

/-- Free value: what an IO address answers at a given step when no answer is listed (R60, R231; log 11). -/
opaque Config.freeIoAnswer : Nat → Byte → Word

/-- Free value: what a device region answers, by step, by access within the step and by address (R62; log 12). -/
opaque Config.deviceOctet : Nat → Nat → Nat → Byte

/-- Free value: whether a signed quotient that is not exact is rounded up, by dividend and divisor, under
`MULDIV_SIGNED = true` (R155; log 8). -/
opaque Config.signedRoundsUp : BitVec 32 → Word → Bool

/-- Free value: the quotient of -2^31 / -1 under `MULDIV_SIGNED = true` (R155; log 8). -/
opaque Config.signedDivOverflow : BitVec 32

/-- Free value: an octet of RAM that an abandoned step was to write, by step and address (R280; log 22). -/
opaque Config.abandonedOctet : Nat → Nat → Byte

/-- Free value: how much of what an abandoned step puts out has gone out (R280; log 22). -/
opaque Config.abandonedOutputs : Nat → Nat

/-- Free value: whether an abandoned step has used up an answer of the IO space (R280; log 22). -/
opaque Config.abandonedInput : Nat → Bool

end Sys2Proof
end

