-- ==== Sys2Proof/Syntax.lean ====
section
/-! DEFINITION. The instructions of the RDCPU as syntax: one constructor per line of the source's encoding lists
(30_encoding.md R95 to R99), and two for the words that are no instruction (R105). -/

namespace Sys2Proof

/-- The sixteen numbered registers (10_state.md R20, R25). `r14` is BP and `r15` is SP. -/
inductive Reg where
  | r0
  | r1
  | r2
  | r3
  | r4
  | r5
  | r6
  | r7
  | r8
  | r9
  | r10
  | r11
  | r12
  | r13
  | r14
  | r15
deriving DecidableEq, Repr

/-- SP is another name of R15 (R24, R25). -/
abbrev Reg.sp : Reg := .r15

/-- BP is another name of R14 (R23, R25). -/
abbrev Reg.bp : Reg := .r14

/-- A 4-bit literal operand (R90): the short literal 0 to 14, or the literal word that the field value 1111 announces.
The two are kept apart because they differ in length, `SET R1, 5` and `SET R1, 5:w` (R110). -/
inductive Lit where
  | short (v : BitVec 4)
  | word (v : Word)
deriving DecidableEq, Repr

/-- One constructor per line of the opcode table, and one each for its reserved and its unassigned words. Operands stand in
the order of the fields of the word: `ra` is REG1 `w[11:8]`, `rb` is REG2 `w[7:4]`, `rc` is REG3 `w[3:0]`, `l` is the
literal field (in REG2's place, in REG3's place where it stands alone), `d` is the 9-bit literal (R8, R84 to R88). -/
inductive Instr where
  /-- `LOAD [REG1 + LITERAL], REG3` (R121). -/
  | loadL (ra : Reg) (l : Lit) (rc : Reg)
  /-- `LOAD [REG1 + REG2], REG3` (R121). -/
  | loadR (ra : Reg) (rb : Reg) (rc : Reg)
  /-- `LOAD.B [REG1 + LITERAL], REG3` (R122). -/
  | loadbL (ra : Reg) (l : Lit) (rc : Reg)
  /-- `LOAD.B [REG1 + REG2], REG3` (R122). -/
  | loadbR (ra : Reg) (rb : Reg) (rc : Reg)
  /-- `STORE [REG1 + LITERAL], REG3` (R123). -/
  | storeL (ra : Reg) (l : Lit) (rc : Reg)
  /-- `STORE [REG1 + REG2], REG3` (R123). -/
  | storeR (ra : Reg) (rb : Reg) (rc : Reg)
  /-- `STORE.B [REG1 + LITERAL], REG3` (R124). -/
  | storebL (ra : Reg) (l : Lit) (rc : Reg)
  /-- `STORE.B [REG1 + REG2], REG3` (R124). -/
  | storebR (ra : Reg) (rb : Reg) (rc : Reg)
  /-- `ADD REG3, REG2` (R131). -/
  | addR (rb : Reg) (rc : Reg)
  /-- `ADD REG3, LITERAL` (R131). -/
  | addL (l : Lit) (rc : Reg)
  /-- `SUB REG3, REG2` (R133). -/
  | subR (rb : Reg) (rc : Reg)
  /-- `SUB REG3, LITERAL` (R133). -/
  | subL (l : Lit) (rc : Reg)
  /-- `ADDC REG3, REG2` (R132). -/
  | addcR (rb : Reg) (rc : Reg)
  /-- `SUBC REG3, REG2` (R134). -/
  | subcR (rb : Reg) (rc : Reg)
  /-- `SUBC REG3, LITERAL` (R134). -/
  | subcL (l : Lit) (rc : Reg)
  /-- `AND REG3, REG2` (R137). -/
  | andR (rb : Reg) (rc : Reg)
  /-- `OR REG3, REG2` (R138). -/
  | orR (rb : Reg) (rc : Reg)
  /-- `XOR REG3, REG2` (R139). -/
  | xorR (rb : Reg) (rc : Reg)
  /-- `SLL REG3, REG2` (R141). -/
  | sllR (rb : Reg) (rc : Reg)
  /-- `SLL REG3, LITERAL` (R141). -/
  | sllL (l : Lit) (rc : Reg)
  /-- `SRL REG3, REG2` (R142). -/
  | srlR (rb : Reg) (rc : Reg)
  /-- `SRL REG3, LITERAL` (R142). -/
  | srlL (l : Lit) (rc : Reg)
  /-- `SRA REG3, REG2` (R143). -/
  | sraR (rb : Reg) (rc : Reg)
  /-- `SRA REG3, LITERAL` (R143). -/
  | sraL (l : Lit) (rc : Reg)
  /-- `ROTL REG3, REG2` (R145). -/
  | rotlR (rb : Reg) (rc : Reg)
  /-- `ROTL REG3, LITERAL` (R145). -/
  | rotlL (l : Lit) (rc : Reg)
  /-- `ROTR REG3, REG2` (R146). -/
  | rotrR (rb : Reg) (rc : Reg)
  /-- `ROTR REG3, LITERAL` (R146). -/
  | rotrL (l : Lit) (rc : Reg)
  /-- `MUL REG3, REG2` (R150). -/
  | mulR (rb : Reg) (rc : Reg)
  /-- `MUL REG3, LITERAL` (R150). -/
  | mulL (l : Lit) (rc : Reg)
  /-- `DIV REG3, REG2` (R152). -/
  | divR (rb : Reg) (rc : Reg)
  /-- `DIV REG3, LITERAL` (R152). -/
  | divL (l : Lit) (rc : Reg)
  /-- `SWP REG3, REG2` (R181). -/
  | swp (rb : Reg) (rc : Reg)
  /-- `CPY REG3, REG2` (R182). -/
  | cpy (rb : Reg) (rc : Reg)
  /-- `SET REG3, LITERAL` (R183). -/
  | setL (l : Lit) (rc : Reg)
  /-- `BEQ REG3, REG2` (R163). -/
  | beqR (rb : Reg) (rc : Reg)
  /-- `BEQ REG3, LITERAL` (R163). -/
  | beqL (l : Lit) (rc : Reg)
  /-- `BNEQ REG3, REG2` (R164). -/
  | bneqR (rb : Reg) (rc : Reg)
  /-- `BNEQ REG3, LITERAL` (R164). -/
  | bneqL (l : Lit) (rc : Reg)
  /-- `BG REG3, REG2` (R165). -/
  | bgR (rb : Reg) (rc : Reg)
  /-- `BG REG3, LITERAL` (R165). -/
  | bgL (l : Lit) (rc : Reg)
  /-- `BGE REG3, REG2` (R166). -/
  | bgeR (rb : Reg) (rc : Reg)
  /-- `BGE REG3, LITERAL` (R166). -/
  | bgeL (l : Lit) (rc : Reg)
  /-- `BUG REG3, REG2` (R167). -/
  | bugR (rb : Reg) (rc : Reg)
  /-- `BUG REG3, LITERAL` (R167). -/
  | bugL (l : Lit) (rc : Reg)
  /-- `BUGE REG3, REG2` (R168). -/
  | bugeR (rb : Reg) (rc : Reg)
  /-- `BUGE REG3, LITERAL` (R168). -/
  | bugeL (l : Lit) (rc : Reg)
  /-- `BBITS REG3, REG2` (R169). -/
  | bbits (rb : Reg) (rc : Reg)
  /-- `BCLEAR REG3, REG2` (R170). -/
  | bclear (rb : Reg) (rc : Reg)
  /-- `INP REG3, REG2` (R231). -/
  | inpR (rb : Reg) (rc : Reg)
  /-- `INP REG3, LITERAL` (R231). -/
  | inpL (l : Lit) (rc : Reg)
  /-- `OUT REG3, REG2` (R232). -/
  | outR (rb : Reg) (rc : Reg)
  /-- `OUT REG3, LITERAL` (R232). -/
  | outL (l : Lit) (rc : Reg)
  /-- `JMP [REG3 + LITERAL]` (R191). -/
  | jmpAbs (l : Lit) (rc : Reg)
  /-- `CALL [REG3 + LITERAL]` (R194). -/
  | callAbs (l : Lit) (rc : Reg)
  /-- `NOT REG3` (R135). -/
  | notR (rc : Reg)
  /-- `NEG REG3` (R136). -/
  | negR (rc : Reg)
  /-- `XCHG REG3` (R184). -/
  | xchg (rc : Reg)
  /-- `SXTBD REG3` (R185). -/
  | sxtbd (rc : Reg)
  /-- `PUSH REG3` (R200). -/
  | push (rc : Reg)
  /-- `POP REG3` (R201). -/
  | pop (rc : Reg)
  /-- `GETPC REG3` (R207). -/
  | getpc (rc : Reg)
  /-- `GETFLAGS REG3` (R208). -/
  | getflags (rc : Reg)
  /-- `SETY REG3` (R209). -/
  | setyR (rc : Reg)
  /-- `SETY LITERAL` (R209). -/
  | setyL (l : Lit)
  /-- `GETY REG3` (R210). -/
  | gety (rc : Reg)
  /-- `INT REG3` (R221). -/
  | intR (rc : Reg)
  /-- `INT LITERAL` (R221). -/
  | intL (l : Lit)
  /-- `GETIA REG3` (R222). -/
  | getia (rc : Reg)
  /-- `SETIA REG3` (R223). -/
  | setiaR (rc : Reg)
  /-- `SETIA LITERAL` (R223). -/
  | setiaL (l : Lit)
  /-- `reserved, 0x3000 to 0x3FFF` (R105). -/
  | reserved (x : BitVec 12)
  /-- `JMP [LITERAL], relative` (R192). -/
  | jmpRel (d : BitVec 9)
  /-- `CALL [LITERAL], relative` (R195). -/
  | callRel (d : BitVec 9)
  /-- `NOP` (R205). -/
  | nop
  /-- `SLEEP` (R206). -/
  | sleep
  /-- `RET` (R196). -/
  | ret
  /-- `RFI` (R224). -/
  | rfi
  /-- `CLRDIVERR` (R211). -/
  | clrdiverr
  /-- `BOVF` (R171). -/
  | bovf
  /-- `BOCF` (R172). -/
  | bocf
  /-- `a word no line assigns` (R105). -/
  | unassigned (w : Word)
deriving DecidableEq, Repr

/-- The literal operand of an instruction that has a `Lit4` field (R92). -/
def Instr.literal? : Instr → Option Lit
  | .loadL _ l _ => some l
  | .loadR _ _ _ => none
  | .loadbL _ l _ => some l
  | .loadbR _ _ _ => none
  | .storeL _ l _ => some l
  | .storeR _ _ _ => none
  | .storebL _ l _ => some l
  | .storebR _ _ _ => none
  | .addR _ _ => none
  | .addL l _ => some l
  | .subR _ _ => none
  | .subL l _ => some l
  | .addcR _ _ => none
  | .subcR _ _ => none
  | .subcL l _ => some l
  | .andR _ _ => none
  | .orR _ _ => none
  | .xorR _ _ => none
  | .sllR _ _ => none
  | .sllL l _ => some l
  | .srlR _ _ => none
  | .srlL l _ => some l
  | .sraR _ _ => none
  | .sraL l _ => some l
  | .rotlR _ _ => none
  | .rotlL l _ => some l
  | .rotrR _ _ => none
  | .rotrL l _ => some l
  | .mulR _ _ => none
  | .mulL l _ => some l
  | .divR _ _ => none
  | .divL l _ => some l
  | .swp _ _ => none
  | .cpy _ _ => none
  | .setL l _ => some l
  | .beqR _ _ => none
  | .beqL l _ => some l
  | .bneqR _ _ => none
  | .bneqL l _ => some l
  | .bgR _ _ => none
  | .bgL l _ => some l
  | .bgeR _ _ => none
  | .bgeL l _ => some l
  | .bugR _ _ => none
  | .bugL l _ => some l
  | .bugeR _ _ => none
  | .bugeL l _ => some l
  | .bbits _ _ => none
  | .bclear _ _ => none
  | .inpR _ _ => none
  | .inpL l _ => some l
  | .outR _ _ => none
  | .outL l _ => some l
  | .jmpAbs l _ => some l
  | .callAbs l _ => some l
  | .notR _ => none
  | .negR _ => none
  | .xchg _ => none
  | .sxtbd _ => none
  | .push _ => none
  | .pop _ => none
  | .getpc _ => none
  | .getflags _ => none
  | .setyR _ => none
  | .setyL l => some l
  | .gety _ => none
  | .intR _ => none
  | .intL l => some l
  | .getia _ => none
  | .setiaR _ => none
  | .setiaL l => some l
  | .reserved _ => none
  | .jmpRel _ => none
  | .callRel _ => none
  | .nop => none
  | .sleep => none
  | .ret => none
  | .rfi => none
  | .clrdiverr => none
  | .bovf => none
  | .bocf => none
  | .unassigned _ => none

end Sys2Proof
end

