-- ==== Sys2Proof/WellFormed.lean ====
section
/-! DEFINITION. What makes an instruction and a choice of parameters well formed. -/

namespace Sys2Proof

/-- A short literal is 0 to 14; the field value 1111 stands for a literal word (R90). -/
def Lit.wf : Lit → Bool
  | .short v => v != 15#4
  | .word _ => true

/-- The words that no line of the source assigns, as 93_implementation_defined.md section 2 lists them (R96 to R99, R105). -/
def lineless (w : Word) : Bool :=
  let n := w.toNat
  (0x0005 ≤ n && n ≤ 0x0007) || (0x000A ≤ n && n ≤ 0x0FFF) ||
  (0x1000 ≤ n && n ≤ 0x11FF) || (0x1600 ≤ n && n ≤ 0x1FFF) ||
  (0x20E0 ≤ n && n ≤ 0x20EF) || (0x2100 ≤ n && n ≤ 0x2FFF) ||
  (0x5C00 ≤ n && n ≤ 0x5CFF) || (0x5E00 ≤ n && n ≤ 0x5EFF) || (0x6900 ≤ n && n ≤ 0x7DFF)

/-- A literal operand is one the literal field can hold. -/
def Instr.litWf (i : Instr) : Bool :=
  match i.literal? with
  | some l => l.wf
  | none => true

/-- Well-formed instructions: the literal is one its field can hold, and a word called unassigned has no line. -/
def Instr.wf (i : Instr) : Bool :=
  match i with
  | .unassigned w => lineless w
  | j => j.litWf

/-- Whether the line of a form comes first of the two lines of its opcode (R101, R102). -/
def ClashForm.isFirst : ClashForm → Bool
  | .rotrR => true
  | .rotrL => true
  | .mulR => true
  | .mulL => true
  | .divR => true
  | .divL => true
  | .getflags => true
  | .bbits => false
  | .bclear => false
  | .inpR => false
  | .inpL => false
  | .outR => false
  | .outL => false
  | .setyR => false

/-- Whether a policy leaves the clashing opcode to the line that comes first (`first = true`) or later (R100). -/
def ClashPolicy.keeps (p : ClashPolicy) (first : Bool) : Bool :=
  match p with
  | .firstListed => first
  | .laterListed => !first
  | .refuse => false

/-- Whether a policy shadows the line that comes first or later, so that `EXTRA_OPCODES` can give it another opcode (R100,
R103). DESIGN CHOICE (log 3): under `refuse` no line is shadowed and the map gives nothing, since R100 calls both
instructions of each pair unreachable then. -/
def ClashPolicy.shadows (p : ClashPolicy) (first : Bool) : Bool :=
  match p with
  | .firstListed => !first
  | .laterListed => first
  | .refuse => false

/-- The opcode values with no line in the source (R96 to R99). -/
def ExtraOpcode.lineless : ExtraOpcode → Bool
  | .twoParam op => op == 0x5C#8 || op == 0x5E#8 || (0x69 ≤ op.toNat && op.toNat ≤ 0x7D)
  | .oneParam op => op == 0x20E#12 || (0x210 ≤ op.toNat && op.toNat ≤ 0x2FF)
  | .longLit op => op == 0#3 || 3 ≤ op.toNat
  | .noParam w => (0x0005 ≤ w.toNat && w.toNat ≤ 0x0007) || (0x000A ≤ w.toNat && w.toNat ≤ 0x0FFF)

/-- `EXTRA_OPCODES` is a partial map from unassigned opcode values to shadowed instructions (R103): no opcode twice, each
without a line in the source, each form one that the clash policy shadows (so under `refuse` it is empty, log 3). -/
def Config.valid (c : Config) : Bool :=
  c.extra.all (fun e => e.opcode.lineless && c.clash.shadows e.form.isFirst) && decide (c.extra.map ExtraEntry.opcode).Nodup

end Sys2Proof
end

