-- ==== Sys2Proof/Decode.lean ====
section
/-! DEFINITION. The default parameter values, decoding and encoding (30_encoding.md). -/

namespace Sys2Proof

/-- The default parameter values of 00_scope.md R6 (log 1). -/
def defaultConfig : Config :=
  { clash := .firstListed
    extra := []
    illegal := .refuse
    byteOrder := .little
    misaligned := .allow
    loadbHigh := .zero
    muldivSigned := false
    getpcOffset := .two
    sleepWake := .onlyWhenTaken
    ioDataWidth := .sixteen
    memMap := []
    halt := .sleepUnwakeable }

/-! ### Fields -/

/-- The register whose plain binary number is `b` (R25). -/
def Reg.ofBits (b : BitVec 4) : Reg :=
  match b.toNat with
  | 0 => .r0
  | 1 => .r1
  | 2 => .r2
  | 3 => .r3
  | 4 => .r4
  | 5 => .r5
  | 6 => .r6
  | 7 => .r7
  | 8 => .r8
  | 9 => .r9
  | 10 => .r10
  | 11 => .r11
  | 12 => .r12
  | 13 => .r13
  | 14 => .r14
  | _ => .r15

/-- The number of a register as a 4-bit field (R25). -/
def Reg.code : Reg → BitVec 4
  | .r0 => 0#4
  | .r1 => 1#4
  | .r2 => 2#4
  | .r3 => 3#4
  | .r4 => 4#4
  | .r5 => 5#4
  | .r6 => 6#4
  | .r7 => 7#4
  | .r8 => 8#4
  | .r9 => 9#4
  | .r10 => 10#4
  | .r11 => 11#4
  | .r12 => 12#4
  | .r13 => 13#4
  | .r14 => 14#4
  | .r15 => 15#4

/-- The literal a 4-bit literal field stands for, the literal word not yet read (R90): `withLit` puts it in. -/
def Lit.ofField (f : BitVec 4) : Lit :=
  if f = 15#4 then .word 0#16 else .short f

/-- Put the literal word in the place that waits for it. -/
def Lit.fill (v : Word) : Lit → Lit
  | .short f => .short f
  | .word _ => .word v

/-- The field of a literal (R90). -/
def Lit.field : Lit → BitVec 4
  | .short f => f
  | .word _ => 15#4

/-- The literal word of a literal, where it has one (R90). -/
def Lit.words : Lit → List Word
  | .short _ => []
  | .word v => [v]

/-- Put the literal word into an instruction that waits for one (R83, R90). -/
def Instr.withLit (v : Word) : Instr → Instr
  | .loadL ra l rc => .loadL ra (l.fill v) rc
  | .loadR ra rb rc => .loadR ra rb rc
  | .loadbL ra l rc => .loadbL ra (l.fill v) rc
  | .loadbR ra rb rc => .loadbR ra rb rc
  | .storeL ra l rc => .storeL ra (l.fill v) rc
  | .storeR ra rb rc => .storeR ra rb rc
  | .storebL ra l rc => .storebL ra (l.fill v) rc
  | .storebR ra rb rc => .storebR ra rb rc
  | .addR rb rc => .addR rb rc
  | .addL l rc => .addL (l.fill v) rc
  | .subR rb rc => .subR rb rc
  | .subL l rc => .subL (l.fill v) rc
  | .addcR rb rc => .addcR rb rc
  | .subcR rb rc => .subcR rb rc
  | .subcL l rc => .subcL (l.fill v) rc
  | .andR rb rc => .andR rb rc
  | .orR rb rc => .orR rb rc
  | .xorR rb rc => .xorR rb rc
  | .sllR rb rc => .sllR rb rc
  | .sllL l rc => .sllL (l.fill v) rc
  | .srlR rb rc => .srlR rb rc
  | .srlL l rc => .srlL (l.fill v) rc
  | .sraR rb rc => .sraR rb rc
  | .sraL l rc => .sraL (l.fill v) rc
  | .rotlR rb rc => .rotlR rb rc
  | .rotlL l rc => .rotlL (l.fill v) rc
  | .rotrR rb rc => .rotrR rb rc
  | .rotrL l rc => .rotrL (l.fill v) rc
  | .mulR rb rc => .mulR rb rc
  | .mulL l rc => .mulL (l.fill v) rc
  | .divR rb rc => .divR rb rc
  | .divL l rc => .divL (l.fill v) rc
  | .swp rb rc => .swp rb rc
  | .cpy rb rc => .cpy rb rc
  | .setL l rc => .setL (l.fill v) rc
  | .beqR rb rc => .beqR rb rc
  | .beqL l rc => .beqL (l.fill v) rc
  | .bneqR rb rc => .bneqR rb rc
  | .bneqL l rc => .bneqL (l.fill v) rc
  | .bgR rb rc => .bgR rb rc
  | .bgL l rc => .bgL (l.fill v) rc
  | .bgeR rb rc => .bgeR rb rc
  | .bgeL l rc => .bgeL (l.fill v) rc
  | .bugR rb rc => .bugR rb rc
  | .bugL l rc => .bugL (l.fill v) rc
  | .bugeR rb rc => .bugeR rb rc
  | .bugeL l rc => .bugeL (l.fill v) rc
  | .bbits rb rc => .bbits rb rc
  | .bclear rb rc => .bclear rb rc
  | .inpR rb rc => .inpR rb rc
  | .inpL l rc => .inpL (l.fill v) rc
  | .outR rb rc => .outR rb rc
  | .outL l rc => .outL (l.fill v) rc
  | .jmpAbs l rc => .jmpAbs (l.fill v) rc
  | .callAbs l rc => .callAbs (l.fill v) rc
  | .notR rc => .notR rc
  | .negR rc => .negR rc
  | .xchg rc => .xchg rc
  | .sxtbd rc => .sxtbd rc
  | .push rc => .push rc
  | .pop rc => .pop rc
  | .getpc rc => .getpc rc
  | .getflags rc => .getflags rc
  | .setyR rc => .setyR rc
  | .setyL l => .setyL (l.fill v)
  | .gety rc => .gety rc
  | .intR rc => .intR rc
  | .intL l => .intL (l.fill v)
  | .getia rc => .getia rc
  | .setiaR rc => .setiaR rc
  | .setiaL l => .setiaL (l.fill v)
  | .reserved x => .reserved x
  | .jmpRel d => .jmpRel d
  | .callRel d => .callRel d
  | .nop => .nop
  | .sleep => .sleep
  | .ret => .ret
  | .rfi => .rfi
  | .clrdiverr => .clrdiverr
  | .bovf => .bovf
  | .bocf => .bocf
  | .unassigned w => .unassigned w

/-- How many words an instruction is long (R80, R92): 2 when its literal field is 1111, else 1. -/
def Instr.words (i : Instr) : Nat :=
  match i.literal? with
  | some (.word _) => 2
  | _ => 1

/-! ### Decoding -/

/-- Why the decoder gives no instruction. -/
inductive DecodeError where
  /-- The opcode has two lines and `CLASH_POLICY = refuse` (R100). -/
  | clash (w : Word)
  /-- The octets end before the instruction does. -/
  | truncated
deriving DecidableEq, Repr

/-- The instruction of a clashing opcode: the line that comes first or the later one, as the policy says (R100 to R102). -/
def clashPick (p : ClashPolicy) (w : Word) (first later : Instr) : Except DecodeError Instr :=
  match p with
  | .firstListed => .ok first
  | .laterListed => .ok later
  | .refuse => .error (.clash w)

/-- The instruction that a word stands for when `EXTRA_OPCODES` gives its opcode to a form (R103): the form reads its
fields where R8 places them, REG2 or LITERAL in `w[7:4]` and REG3 in `w[3:0]`. DESIGN CHOICE (log 3): it does so in an
opcode value of another format too, whose further bits are then fixed by the opcode, or not looked at. -/
def ClashForm.instr (w : Word) (f : ClashForm) : Instr :=
  let rb := Reg.ofBits (w.extractLsb' 4 4)
  let l := Lit.ofField (w.extractLsb' 4 4)
  let rc := Reg.ofBits (w.extractLsb' 0 4)
  match f with
  | .rotrR => .rotrR rb rc
  | .rotrL => .rotrL l rc
  | .mulR => .mulR rb rc
  | .mulL => .mulL l rc
  | .divR => .divR rb rc
  | .divL => .divL l rc
  | .getflags => .getflags rc
  | .bbits => .bbits rb rc
  | .bclear => .bclear rb rc
  | .inpR => .inpR rb rc
  | .inpL => .inpL l rc
  | .outR => .outR rb rc
  | .outL => .outL l rc
  | .setyR => .setyR rc

/-- Whether a word has an opcode value (R81, R96 to R99). -/
def ExtraOpcode.covers (o : ExtraOpcode) (w : Word) : Bool :=
  match o with
  | .twoParam op => w.extractLsb' 14 2 == 1#2 && w.extractLsb' 8 8 == op
  | .oneParam op => w.extractLsb' 12 4 == 2#4 && w.extractLsb' 4 12 == op
  | .longLit op => w.extractLsb' 12 4 == 1#4 && w.extractLsb' 9 3 == op
  | .noParam v => w.extractLsb' 12 4 == 0#4 && w == v

/-- The entry of `EXTRA_OPCODES` that gives a meaning to a word without a line, the first one where there are several (R103):
only entries for forms that the clash policy shadows count (log 3). -/
def Config.extraAt (c : Config) (w : Word) : Option ExtraEntry :=
  c.extra.find? (fun e => e.opcode.covers w && c.clash.shadows e.form.isFirst)

/-- Format 3P (R84, R95): `w[15:12]` and the three fields. -/
def decode3P (w : Word) : Instr :=
  let ra := Reg.ofBits (w.extractLsb' 8 4)
  let rb := Reg.ofBits (w.extractLsb' 4 4)
  let l := Lit.ofField (w.extractLsb' 4 4)
  let rc := Reg.ofBits (w.extractLsb' 0 4)
  match w.extractLsb' 12 3 with
  | 0#3 => .loadL ra l rc
  | 1#3 => .loadR ra rb rc
  | 2#3 => .loadbL ra l rc
  | 3#3 => .loadbR ra rb rc
  | 4#3 => .storeL ra l rc
  | 5#3 => .storeR ra rb rc
  | 6#3 => .storebL ra l rc
  | _ => .storebR ra rb rc

/-- Format 2P (R85, R96): `w[15:8]` and the two fields. -/
def decode2P (p : ClashPolicy) (w : Word) : Except DecodeError Instr :=
  let rb := Reg.ofBits (w.extractLsb' 4 4)
  let l := Lit.ofField (w.extractLsb' 4 4)
  let rc := Reg.ofBits (w.extractLsb' 0 4)
  match w.extractLsb' 8 8 with
  | 0x40#8 => .ok (.addR rb rc)
  | 0x41#8 => .ok (.addL l rc)
  | 0x42#8 => .ok (.subR rb rc)
  | 0x43#8 => .ok (.subL l rc)
  | 0x44#8 => .ok (.addcR rb rc)
  | 0x45#8 => .ok (.subcR rb rc)
  | 0x46#8 => .ok (.subcL l rc)
  | 0x47#8 => .ok (.andR rb rc)
  | 0x48#8 => .ok (.orR rb rc)
  | 0x49#8 => .ok (.xorR rb rc)
  | 0x4A#8 => .ok (.sllR rb rc)
  | 0x4B#8 => .ok (.sllL l rc)
  | 0x4C#8 => .ok (.srlR rb rc)
  | 0x4D#8 => .ok (.srlL l rc)
  | 0x4E#8 => .ok (.sraR rb rc)
  | 0x4F#8 => .ok (.sraL l rc)
  | 0x50#8 => .ok (.rotlR rb rc)
  | 0x51#8 => .ok (.rotlL l rc)
  | 0x52#8 => clashPick p w (.rotrR rb rc) (.bbits rb rc)
  | 0x53#8 => clashPick p w (.rotrL l rc) (.bclear rb rc)
  | 0x54#8 => clashPick p w (.mulR rb rc) (.inpR rb rc)
  | 0x55#8 => clashPick p w (.mulL l rc) (.inpL l rc)
  | 0x56#8 => clashPick p w (.divR rb rc) (.outR rb rc)
  | 0x57#8 => clashPick p w (.divL l rc) (.outL l rc)
  | 0x58#8 => .ok (.swp rb rc)
  | 0x59#8 => .ok (.cpy rb rc)
  | 0x5A#8 => .ok (.setL l rc)
  | 0x5B#8 => .ok (.beqR rb rc)
  | 0x5D#8 => .ok (.beqL l rc)
  | 0x5F#8 => .ok (.bneqR rb rc)
  | 0x60#8 => .ok (.bneqL l rc)
  | 0x61#8 => .ok (.bgR rb rc)
  | 0x62#8 => .ok (.bgL l rc)
  | 0x63#8 => .ok (.bgeR rb rc)
  | 0x64#8 => .ok (.bgeL l rc)
  | 0x65#8 => .ok (.bugR rb rc)
  | 0x66#8 => .ok (.bugL l rc)
  | 0x67#8 => .ok (.bugeR rb rc)
  | 0x68#8 => .ok (.bugeL l rc)
  | 0x7E#8 => .ok (.jmpAbs l rc)
  | 0x7F#8 => .ok (.callAbs l rc)
  | _ => .ok (.unassigned w)

/-- Format 1P (R86, R97, R105): `w[15:4]` and one field; with `w[12] = 1` the word is reserved. -/
def decode1P (p : ClashPolicy) (w : Word) : Except DecodeError Instr :=
  let l := Lit.ofField (w.extractLsb' 0 4)
  let rc := Reg.ofBits (w.extractLsb' 0 4)
  if w.extractLsb' 12 4 = 0x3#4 then .ok (.reserved (w.extractLsb' 0 12))
  else
    match w.extractLsb' 4 12 with
    | 0x200#12 => .ok (.notR rc)
    | 0x201#12 => .ok (.negR rc)
    | 0x202#12 => .ok (.xchg rc)
    | 0x203#12 => .ok (.sxtbd rc)
    | 0x204#12 => .ok (.push rc)
    | 0x205#12 => .ok (.pop rc)
    | 0x206#12 => .ok (.getpc rc)
    | 0x207#12 => clashPick p w (.getflags rc) (.setyR rc)
    | 0x208#12 => .ok (.setyL l)
    | 0x209#12 => .ok (.gety rc)
    | 0x20A#12 => .ok (.intR rc)
    | 0x20B#12 => .ok (.intL l)
    | 0x20C#12 => .ok (.getia rc)
    | 0x20D#12 => .ok (.setiaR rc)
    | 0x20F#12 => .ok (.setiaL l)
    | _ => .ok (.unassigned w)

/-- Format 1L (R87, R98): `w[11:9]` and the 9-bit literal. -/
def decode1L (w : Word) : Instr :=
  match w.extractLsb' 9 3 with
  | 1#3 => .jmpRel (w.extractLsb' 0 9)
  | 2#3 => .callRel (w.extractLsb' 0 9)
  | _ => .unassigned w

/-- Format 0P (R88, R99): the whole word is the opcode. -/
def decode0P (w : Word) : Instr :=
  match w with
  | 0x0000#16 => .nop
  | 0x0001#16 => .sleep
  | 0x0002#16 => .ret
  | 0x0003#16 => .rfi
  | 0x0004#16 => .clrdiverr
  | 0x0008#16 => .bovf
  | 0x0009#16 => .bocf
  | _ => .unassigned w

/-- `Decode` (R81, R108) with `EXTRA_OPCODES` empty: the instruction of a first word by the lines of the source. -/
def decodeListed (p : ClashPolicy) (w : Word) : Except DecodeError Instr :=
  if w.extractLsb' 15 1 = 1#1 then .ok (decode3P w)
  else if w.extractLsb' 14 2 = 1#2 then decode2P p w
  else if w.extractLsb' 13 3 = 1#3 then decode1P p w
  else if w.extractLsb' 12 4 = 1#4 then .ok (decode1L w)
  else .ok (decode0P w)

/-- The meaning that `EXTRA_OPCODES` gives to a word without a line, where it gives one (R103). -/
def Config.extraInstr (c : Config) (w : Word) : Instr :=
  match c.extraAt w with
  | some e => e.form.instr w
  | none => .unassigned w

/-- `Decode` (R81, R103, R108): the instruction of a first word. A literal word it announces is not yet in it. A word
without a meaning decodes to `unassigned` or `reserved`, which is R105's `Illegal`. -/
def decodeFirst (c : Config) (w : Word) : Except DecodeError Instr :=
  match decodeListed c.clash w with
  | .ok (.unassigned v) => .ok (c.extraInstr v)
  | r => r

/-- The instruction of a first word and the word after it, which counts only where the first word announces it (R90). -/
def decode (c : Config) (w lit : Word) : Except DecodeError Instr :=
  match decodeFirst c w with
  | .ok i => .ok (i.withLit lit)
  | .error e => .error e

/-- The word of two octets, the one at the lower address first (R51, R53). -/
def joinOctets (o : ByteOrder) (b0 b1 : Byte) : Word :=
  match o with
  | .little => b1 ++ b0
  | .big => b0 ++ b1

/-- The octets of a word, the one for the lower address first (R51, R55). -/
def splitWord (o : ByteOrder) (w : Word) : Byte × Byte :=
  match o with
  | .little => (w.extractLsb' 0 8, w.extractLsb' 8 8)
  | .big => (w.extractLsb' 8 8, w.extractLsb' 0 8)

/-- The decoder over octets as RAM holds them: the instruction and the octets after it, or why there is none. -/
def decodeOctets (c : Config) : List Byte → Except DecodeError (Instr × List Byte)
  | b0 :: b1 :: rest =>
    match decodeFirst c (joinOctets c.byteOrder b0 b1) with
    | .error e => .error e
    | .ok i =>
      if i.words = 1 then .ok (i, rest)
      else
        match rest with
        | b2 :: b3 :: rest' => .ok (i.withLit (joinOctets c.byteOrder b2 b3), rest')
        | _ => .error .truncated
  | _ => .error .truncated

/-- The octets of a word as a list, in the order RAM holds them. -/
def wordOctets (o : ByteOrder) (w : Word) : List Byte := [(splitWord o w).1, (splitWord o w).2]

/-- The first and the second word of an instruction given as a number of `nbits` bits, the first word lowest. -/
def tableWords (nbits w : Nat) : Word × Word :=
  (BitVec.ofNat 16 (w % 2 ^ nbits), BitVec.ofNat 16 ((w % 2 ^ nbits) / 2 ^ 16))

/-- The instruction the decoder reads from `w`, laid out in octets as the default parameters store it. -/
def decodeTableWord (nbits w : Nat) : Option Instr :=
  match decodeOctets defaultConfig
      (wordOctets defaultConfig.byteOrder (tableWords nbits w).1 ++ wordOctets defaultConfig.byteOrder (tableWords nbits w).2) with
  | .ok (i, _) => some i
  | .error _ => none

/-! ### Encoding -/

/-- A format 3P word (R84). -/
def word3P (op : BitVec 4) (f1 f2 f3 : BitVec 4) : Word := op ++ f1 ++ f2 ++ f3

/-- A format 2P word (R85). -/
def word2P (op : BitVec 8) (f2 f3 : BitVec 4) : Word := op ++ f2 ++ f3

/-- A format 1P word (R86). -/
def word1P (op : BitVec 12) (f3 : BitVec 4) : Word := op ++ f3

/-- A format 1L word (R87). -/
def word1L (op : BitVec 7) (d : BitVec 9) : Word := op ++ d

/-- The first word of an instruction, from its line in the source's lists (R95 to R99). -/
def Instr.firstWord : Instr → Word
  | .loadL ra l rc => word3P 0x8#4 ra.code l.field rc.code
  | .loadR ra rb rc => word3P 0x9#4 ra.code rb.code rc.code
  | .loadbL ra l rc => word3P 0xA#4 ra.code l.field rc.code
  | .loadbR ra rb rc => word3P 0xB#4 ra.code rb.code rc.code
  | .storeL ra l rc => word3P 0xC#4 ra.code l.field rc.code
  | .storeR ra rb rc => word3P 0xD#4 ra.code rb.code rc.code
  | .storebL ra l rc => word3P 0xE#4 ra.code l.field rc.code
  | .storebR ra rb rc => word3P 0xF#4 ra.code rb.code rc.code
  | .addR rb rc => word2P 0x40#8 rb.code rc.code
  | .addL l rc => word2P 0x41#8 l.field rc.code
  | .subR rb rc => word2P 0x42#8 rb.code rc.code
  | .subL l rc => word2P 0x43#8 l.field rc.code
  | .addcR rb rc => word2P 0x44#8 rb.code rc.code
  | .subcR rb rc => word2P 0x45#8 rb.code rc.code
  | .subcL l rc => word2P 0x46#8 l.field rc.code
  | .andR rb rc => word2P 0x47#8 rb.code rc.code
  | .orR rb rc => word2P 0x48#8 rb.code rc.code
  | .xorR rb rc => word2P 0x49#8 rb.code rc.code
  | .sllR rb rc => word2P 0x4A#8 rb.code rc.code
  | .sllL l rc => word2P 0x4B#8 l.field rc.code
  | .srlR rb rc => word2P 0x4C#8 rb.code rc.code
  | .srlL l rc => word2P 0x4D#8 l.field rc.code
  | .sraR rb rc => word2P 0x4E#8 rb.code rc.code
  | .sraL l rc => word2P 0x4F#8 l.field rc.code
  | .rotlR rb rc => word2P 0x50#8 rb.code rc.code
  | .rotlL l rc => word2P 0x51#8 l.field rc.code
  | .rotrR rb rc => word2P 0x52#8 rb.code rc.code
  | .rotrL l rc => word2P 0x53#8 l.field rc.code
  | .mulR rb rc => word2P 0x54#8 rb.code rc.code
  | .mulL l rc => word2P 0x55#8 l.field rc.code
  | .divR rb rc => word2P 0x56#8 rb.code rc.code
  | .divL l rc => word2P 0x57#8 l.field rc.code
  | .swp rb rc => word2P 0x58#8 rb.code rc.code
  | .cpy rb rc => word2P 0x59#8 rb.code rc.code
  | .setL l rc => word2P 0x5A#8 l.field rc.code
  | .beqR rb rc => word2P 0x5B#8 rb.code rc.code
  | .beqL l rc => word2P 0x5D#8 l.field rc.code
  | .bneqR rb rc => word2P 0x5F#8 rb.code rc.code
  | .bneqL l rc => word2P 0x60#8 l.field rc.code
  | .bgR rb rc => word2P 0x61#8 rb.code rc.code
  | .bgL l rc => word2P 0x62#8 l.field rc.code
  | .bgeR rb rc => word2P 0x63#8 rb.code rc.code
  | .bgeL l rc => word2P 0x64#8 l.field rc.code
  | .bugR rb rc => word2P 0x65#8 rb.code rc.code
  | .bugL l rc => word2P 0x66#8 l.field rc.code
  | .bugeR rb rc => word2P 0x67#8 rb.code rc.code
  | .bugeL l rc => word2P 0x68#8 l.field rc.code
  | .bbits rb rc => word2P 0x52#8 rb.code rc.code
  | .bclear rb rc => word2P 0x53#8 rb.code rc.code
  | .inpR rb rc => word2P 0x54#8 rb.code rc.code
  | .inpL l rc => word2P 0x55#8 l.field rc.code
  | .outR rb rc => word2P 0x56#8 rb.code rc.code
  | .outL l rc => word2P 0x57#8 l.field rc.code
  | .jmpAbs l rc => word2P 0x7E#8 l.field rc.code
  | .callAbs l rc => word2P 0x7F#8 l.field rc.code
  | .notR rc => word1P 0x200#12 rc.code
  | .negR rc => word1P 0x201#12 rc.code
  | .xchg rc => word1P 0x202#12 rc.code
  | .sxtbd rc => word1P 0x203#12 rc.code
  | .push rc => word1P 0x204#12 rc.code
  | .pop rc => word1P 0x205#12 rc.code
  | .getpc rc => word1P 0x206#12 rc.code
  | .getflags rc => word1P 0x207#12 rc.code
  | .setyR rc => word1P 0x207#12 rc.code
  | .setyL l => word1P 0x208#12 l.field
  | .gety rc => word1P 0x209#12 rc.code
  | .intR rc => word1P 0x20A#12 rc.code
  | .intL l => word1P 0x20B#12 l.field
  | .getia rc => word1P 0x20C#12 rc.code
  | .setiaR rc => word1P 0x20D#12 rc.code
  | .setiaL l => word1P 0x20F#12 l.field
  | .reserved x => 0x3#4 ++ x
  | .jmpRel d => word1L 0x09#7 d
  | .callRel d => word1L 0x0A#7 d
  | .nop => 0x0000#16
  | .sleep => 0x0001#16
  | .ret => 0x0002#16
  | .rfi => 0x0003#16
  | .clrdiverr => 0x0004#16
  | .bovf => 0x0008#16
  | .bocf => 0x0009#16
  | .unassigned w => w

/-- The words of an instruction as the source lists it: the first word, then the literal word where it has one. -/
def encode (i : Instr) : List Word :=
  i.firstWord :: (match i.literal? with | some l => l.words | none => [])

/-- The line of a clashing opcode that an instruction is (R101, R102). -/
def Instr.clashForm? : Instr → Option ClashForm
  | .loadL _ _ _ => none
  | .loadR _ _ _ => none
  | .loadbL _ _ _ => none
  | .loadbR _ _ _ => none
  | .storeL _ _ _ => none
  | .storeR _ _ _ => none
  | .storebL _ _ _ => none
  | .storebR _ _ _ => none
  | .addR _ _ => none
  | .addL _ _ => none
  | .subR _ _ => none
  | .subL _ _ => none
  | .addcR _ _ => none
  | .subcR _ _ => none
  | .subcL _ _ => none
  | .andR _ _ => none
  | .orR _ _ => none
  | .xorR _ _ => none
  | .sllR _ _ => none
  | .sllL _ _ => none
  | .srlR _ _ => none
  | .srlL _ _ => none
  | .sraR _ _ => none
  | .sraL _ _ => none
  | .rotlR _ _ => none
  | .rotlL _ _ => none
  | .rotrR _ _ => some .rotrR
  | .rotrL _ _ => some .rotrL
  | .mulR _ _ => some .mulR
  | .mulL _ _ => some .mulL
  | .divR _ _ => some .divR
  | .divL _ _ => some .divL
  | .swp _ _ => none
  | .cpy _ _ => none
  | .setL _ _ => none
  | .beqR _ _ => none
  | .beqL _ _ => none
  | .bneqR _ _ => none
  | .bneqL _ _ => none
  | .bgR _ _ => none
  | .bgL _ _ => none
  | .bgeR _ _ => none
  | .bgeL _ _ => none
  | .bugR _ _ => none
  | .bugL _ _ => none
  | .bugeR _ _ => none
  | .bugeL _ _ => none
  | .bbits _ _ => some .bbits
  | .bclear _ _ => some .bclear
  | .inpR _ _ => some .inpR
  | .inpL _ _ => some .inpL
  | .outR _ _ => some .outR
  | .outL _ _ => some .outL
  | .jmpAbs _ _ => none
  | .callAbs _ _ => none
  | .notR _ => none
  | .negR _ => none
  | .xchg _ => none
  | .sxtbd _ => none
  | .push _ => none
  | .pop _ => none
  | .getpc _ => none
  | .getflags _ => some .getflags
  | .setyR _ => some .setyR
  | .setyL _ => none
  | .gety _ => none
  | .intR _ => none
  | .intL _ => none
  | .getia _ => none
  | .setiaR _ => none
  | .setiaL _ => none
  | .reserved _ => none
  | .jmpRel _ => none
  | .callRel _ => none
  | .nop => none
  | .sleep => none
  | .ret => none
  | .rfi => none
  | .clrdiverr => none
  | .bovf => none
  | .bocf => none
  | .unassigned _ => none

/-- A word with an opcode value and, where they fit beside it, the operand fields of a form, `w[7:0]`. -/
def ExtraOpcode.place (o : ExtraOpcode) (fields : BitVec 8) : Word :=
  match o with
  | .twoParam op => op ++ fields
  | .oneParam op => op ++ fields.extractLsb' 0 4
  | .longLit op => 1#4 ++ op ++ 0#1 ++ fields
  | .noParam w => w

/-- The first word of an instruction by one entry of `EXTRA_OPCODES`, none where the entry is for another form or its
opcode value fixes an operand field to something else (R103). -/
def ExtraEntry.firstWord? (e : ExtraEntry) (i : Instr) : Option Word :=
  if e.form.instr (e.opcode.place (i.firstWord.extractLsb' 0 8)) = i.withLit 0#16 then
    some (e.opcode.place (i.firstWord.extractLsb' 0 8))
  else none

/-- The first word of an instruction under given parameters (R100 to R103): its own line's where the clash policy leaves
it that opcode, else by the first entry of `EXTRA_OPCODES` that can hold it, else none. -/
def firstWordUnder (c : Config) (i : Instr) : Option Word :=
  match i.clashForm? with
  | some f =>
    if c.clash.keeps f.isFirst then some i.firstWord
    else if c.clash.shadows f.isFirst then c.extra.findSome? (fun e => e.firstWord? i)
    else none
  | none =>
    match i with
    | .unassigned w => if (c.extraAt w).isSome then none else some w
    | j => some j.firstWord

/-- The words of an instruction under given parameters, none where it is shadowed and `EXTRA_OPCODES` gives it no opcode. -/
def encodeUnder (c : Config) (i : Instr) : Option (List Word) :=
  (firstWordUnder c i).map (fun w => w :: (match i.literal? with | some l => l.words | none => []))

/-- The octets of an instruction under given parameters, as RAM holds them. -/
def encodeOctets (c : Config) (i : Instr) : Option (List Byte) :=
  (encodeUnder c i).map (fun ws => ws.flatMap (wordOctets c.byteOrder))

end Sys2Proof
end

