-- ==== Sys2Proof/Machine/State.lean ====
section
/-! DEFINITION. The state of the machine as plain data, the ways it can stop, and the state after reset (10_state.md). -/

namespace Sys2Proof.Machine

/-- The numbered registers that have storage: R1 to R15, R14 being BP and R15 SP (R20, R22 to R25). R0 has none (R21). -/
structure RegFile where
  r1 : Word
  r2 : Word
  r3 : Word
  r4 : Word
  r5 : Word
  r6 : Word
  r7 : Word
  r8 : Word
  r9 : Word
  r10 : Word
  r11 : Word
  r12 : Word
  r13 : Word
  r14 : Word
  r15 : Word
deriving DecidableEq, Repr

/-- The four bits of FLAGS that exist (R30): OF, CF, DE and IF. Bits 15 to 4 read always 0 (R35) and have no storage. -/
structure Flags where
  overflow : Bool
  carry : Bool
  divError : Bool
  interrupt : Bool
deriving DecidableEq, Repr

/-- RAM: the octets that something has written or loaded, each at its address (R40, R50). -/
structure Memory where
  cells : List Host.Cell
deriving DecidableEq, Repr

/-- What stands on the CPU's input lines at one instruction boundary (R42, R248): whether the INT line is low, which is a
request, and the value on the data bus. -/
structure Pins where
  intLow : Bool
  dataBus : Word
deriving DecidableEq, Repr

/-- What the CPU puts out to devices: a write to an IO address (R60, R232), or to an octet of a device region (R62). -/
inductive Output where
  | io (port : Byte) (value : Word)
  | mem (addr : Word) (value : Byte)
deriving DecidableEq, Repr

/-- The state of the machine. The IACQ line is the view `State.iacq` (R34, R42). -/
structure State where
  /-- R1 to R15 (R20). -/
  regs : RegFile
  /-- PC (R26). -/
  pc : Word
  /-- FLAGS (R30). -/
  flags : Flags
  /-- Y (R37). -/
  y : Word
  /-- IA (R38). -/
  ia : Word
  /-- Whether the CPU sleeps (R42, R206). -/
  asleep : Bool
  /-- RAM (R40). -/
  mem : Memory
  /-- The input lines at this boundary and the ones after it, as far as they are listed (R248, log 15). -/
  inputs : List Pins
  /-- The answers to the coming IO reads, as far as they are listed (R60, log 11). -/
  ioInputs : List Word
  /-- What the CPU has put out, the oldest first (R60, R62). -/
  outputs : List Output
  /-- The model's own: how many steps have been made, which picks the free values of a step (log 16). -/
  boundary : Nat
  /-- The model's own: the parameters of R6, which no step changes (log 1). -/
  cfg : Config
deriving DecidableEq, Repr

/-- How a step can end in a fault. -/
inductive Fault where
  /-- Raised by a conditional whose test fails when its skip chain meets no non-conditional instruction (R161 gives the
  loop no other end, log 20). Safe: the model stops. -/
  | endlessSkip
deriving DecidableEq, Repr

/-- How a step can be refused. Every one of these is safe: the model stops. -/
inductive Refusal where
  /-- Raised by `exec` for an instruction that has no meaning yet. Safe. -/
  | notModelled (mnemonic : String)
  /-- Raised by a reserved or unassigned word that is to be executed (R105). Safe. -/
  | illegalWord (w : Word)
  /-- Raised by fetching a word with a clashing opcode under `CLASH_POLICY = refuse` (R100). Safe. -/
  | clashRefused (w : Word)
  /-- Raised by a skip chain that meets a word which decodes to nothing (R161). Safe. -/
  | skipOverIllegal (w : Word)
  /-- Raised by a 16-bit access at an odd address under `MISALIGNED_POLICY = refuse` (R57). Safe. -/
  | misaligned (a : Word)
  /-- Raised by an access to a region that `MEMMAP` calls empty (R66, D34). Safe. -/
  | emptyRegion (a : Word)
  /-- Raised by a write to a region that `MEMMAP` calls ROM (R66). Safe. -/
  | romWrite (a : Word)
deriving DecidableEq, Repr

/-- Every register at 0 (R45). -/
def RegFile.zero : RegFile :=
  { r1 := 0#16, r2 := 0#16, r3 := 0#16, r4 := 0#16, r5 := 0#16, r6 := 0#16, r7 := 0#16, r8 := 0#16,
    r9 := 0#16, r10 := 0#16, r11 := 0#16, r12 := 0#16, r13 := 0#16, r14 := 0#16, r15 := 0#16 }

/-- Every flag at 0 (R45). -/
def Flags.zero : Flags := { overflow := false, carry := false, divError := false, interrupt := false }

/-- The machine right after reset (R45, R280): every register 0, awake, nothing known of RAM (log 14), nothing listed of
the inputs (log 15), the parameters at the defaults of R6 (log 1). -/
def State.reset : State :=
  { regs := RegFile.zero
    pc := 0#16
    flags := Flags.zero
    y := 0#16
    ia := 0#16
    asleep := false
    mem := { cells := [] }
    inputs := []
    ioInputs := []
    outputs := []
    boundary := 0
    cfg := defaultConfig }

end Sys2Proof.Machine
end

