-- ==== Sys2Proof/Machine/Ops.lean ====
section
/-! DEFINITION. The named operations that the meanings share: registers, memory, the stack, IO, taking an interrupt and
returning from one. -/

namespace Sys2Proof.Machine

/-- What an operation answers: a value, a fault or a refusal. -/
abbrev Result (α : Type) : Type := Host.Outcome α Fault Refusal

/-- Go on with the value of an operation; a fault or a refusal ends it. -/
def andThen {α β : Type} (x : Result α) (f : α → Result β) : Result β :=
  match x with
  | .next a => f a
  | .fault e => .fault e
  | .refused e => .refused e

/-! ### Registers -/

/-- `x[i]` (R10): a read of R0 gives 0 (R21). -/
def RegFile.get (g : RegFile) (r : Reg) : Word :=
  match r with
  | .r0 => 0#16
  | .r1 => g.r1
  | .r2 => g.r2
  | .r3 => g.r3
  | .r4 => g.r4
  | .r5 => g.r5
  | .r6 => g.r6
  | .r7 => g.r7
  | .r8 => g.r8
  | .r9 => g.r9
  | .r10 => g.r10
  | .r11 => g.r11
  | .r12 => g.r12
  | .r13 => g.r13
  | .r14 => g.r14
  | .r15 => g.r15

/-- `x[i] <- v` (R10): a write to R0 is discarded (R21). -/
def RegFile.set (g : RegFile) (r : Reg) (v : Word) : RegFile :=
  match r with
  | .r0 => g
  | .r1 => { g with r1 := v }
  | .r2 => { g with r2 := v }
  | .r3 => { g with r3 := v }
  | .r4 => { g with r4 := v }
  | .r5 => { g with r5 := v }
  | .r6 => { g with r6 := v }
  | .r7 => { g with r7 := v }
  | .r8 => { g with r8 := v }
  | .r9 => { g with r9 := v }
  | .r10 => { g with r10 := v }
  | .r11 => { g with r11 := v }
  | .r12 => { g with r12 := v }
  | .r13 => { g with r13 := v }
  | .r14 => { g with r14 := v }
  | .r15 => { g with r15 := v }

/-- The value of a numbered register (R10, R21). -/
def State.reg (s : State) (r : Reg) : Word := s.regs.get r

/-- Write a numbered register (R10, R21). -/
def State.setReg (s : State) (r : Reg) (v : Word) : State := { s with regs := s.regs.set r v }

/-- SP, which is R15 (R24). -/
def State.sp (s : State) : Word := s.reg .sp

/-- Write PC (R26). -/
def State.setPc (s : State) (v : Word) : State := { s with pc := v }

/-- Write Y (R37). -/
def State.setY (s : State) (v : Word) : State := { s with y := v }

/-- Write IA (R38). -/
def State.setIa (s : State) (v : Word) : State := { s with ia := v }

/-- Fall asleep or wake (R42). -/
def State.setAsleep (s : State) (v : Bool) : State := { s with asleep := v }

/-- Write the four flags. -/
def State.setFlags (s : State) (f : Flags) : State := { s with flags := f }

/-- Write `FLAGS.CF` (R32). -/
def State.setCarry (s : State) (b : Bool) : State := { s with flags := { s.flags with carry := b } }

/-- Write `FLAGS.DE` (R33). -/
def State.setDivError (s : State) (b : Bool) : State := { s with flags := { s.flags with divError := b } }

/-- Write `FLAGS.IF` (R34). -/
def State.setInterrupt (s : State) (b : Bool) : State := { s with flags := { s.flags with interrupt := b } }

/-- Write RAM as a whole. -/
def State.setMem (s : State) (m : Memory) : State := { s with mem := m }

/-- The IACQ (IACK) output line, true is high: equal to `FLAGS.IF` at all times (R34, R42). -/
def State.iacq (s : State) : Bool := s.flags.interrupt

/-! ### RAM as a list of cells -/

/-- The octet a list of cells holds at an address. -/
def cellsGet (a : Nat) : List Host.Cell → Option Byte
  | [] => none
  | (x, b) :: rest => if x = a then some b else cellsGet a rest

/-- Put an octet in its place in a list of cells whose addresses rise. -/
def cellsSet (a : Nat) (b : Byte) : List Host.Cell → List Host.Cell
  | [] => [(a, b)]
  | (x, v) :: rest =>
    if a < x then (a, b) :: (x, v) :: rest
    else if a = x then (a, b) :: rest
    else (x, v) :: cellsSet a b rest

/-- Whether the addresses of a list of cells rise strictly and stand in the address space, 0x0000 to 0xFFFF (R40). -/
def cellsRise : List Host.Cell → Bool
  | [] => true
  | [(a, _)] => decide (a < 0x10000)
  | (a, _) :: (b, v) :: rest => decide (a < b) && cellsRise ((b, v) :: rest)

/-- The octet that is known to stand at an address, none where nothing has been written or loaded. -/
def Memory.get? (m : Memory) (a : Nat) : Option Byte := cellsGet a m.cells

/-- Write one octet (R54). -/
def Memory.set (m : Memory) (a : Nat) (b : Byte) : Memory := { cells := cellsSet a b m.cells }

/-- The canonical form: addresses strictly rising, inside the address space. An unlisted address has no value, so no entry
can equal what it reads as (log 14). -/
def Memory.wf (m : Memory) : Bool := cellsRise m.cells

/-- `ram[a]` (R50): the octet listed there, else the unknown octet of the platform's image (R45, R281; log 14). -/
def State.octet (s : State) (a : Word) : Byte :=
  match s.mem.get? a.toNat with
  | some b => b
  | none => Config.ramImage a.toNat

/-! ### Accesses -/

/-- What the first region that holds an address calls it; an address in no region is RAM (R65, log 12). -/
def kindIn (n : Nat) : List Region → MemKind
  | [] => .ram
  | g :: rest => if g.base ≤ n ∧ n < g.base + g.size then g.kind else kindIn n rest

/-- What `MEMMAP` calls an address (R6, R65). -/
def State.kindAt (s : State) (a : Word) : MemKind := kindIn a.toNat s.cfg.memMap

/-- `MemRead(a, 1)` (R52), the `k`-th access of this step: a device octet is answered freely at each access (R62), an
empty region is refused (R66). -/
def readOctet (s : State) (k : Nat) (a : Word) : Result Byte :=
  match s.kindAt a with
  | .ram => .next (s.octet a)
  | .rom => .next (s.octet a)
  | .device => .next (Config.deviceOctet s.boundary k a.toNat)
  | .empty => .refused (.emptyRegion a)

/-- Whether `MISALIGNED_POLICY` lets a 16-bit access be made at an address (R57). -/
def State.wordAt (s : State) (a : Word) : Bool :=
  match s.cfg.misaligned with
  | .allow => true
  | .refuse => !a.getLsbD 0

/-- `MemRead(a, 2)` (R53): the octets at `a` and `(a + 1#16) mod 2^16`. -/
def readWord (s : State) (k : Nat) (a : Word) : Result Word :=
  if s.wordAt a then
    andThen (readOctet s k a) fun b0 =>
    andThen (readOctet s k (a + 1#16)) fun b1 =>
    .next (joinOctets s.cfg.byteOrder b0 b1)
  else .refused (.misaligned a)

/-- Whether an octet can be written: not in ROM and not in an empty region (R66). -/
def mayWrite (s : State) (a : Word) : Result Unit :=
  match s.kindAt a with
  | .ram => .next ()
  | .device => .next ()
  | .rom => .refused (.romWrite a)
  | .empty => .refused (.emptyRegion a)

/-- Put one octet: into RAM, or out to the device that stands at the address (R54, R62). -/
def State.putOctet (s : State) (a : Word) (v : Byte) : State :=
  match s.kindAt a with
  | .device => { s with outputs := s.outputs ++ [.mem a v] }
  | _ => s.setMem (s.mem.set a.toNat v)

/-- `MemWrite(a, 1, v)` (R54). -/
def writeOctet (s : State) (a : Word) (v : Byte) : Result State :=
  andThen (mayWrite s a) fun _ => .next (s.putOctet a v)

/-- `MemWrite(a, 2, v)` (R55): one access, so a refused octet leaves the other one unwritten. -/
def writeWord (s : State) (a : Word) (v : Word) : Result State :=
  if s.wordAt a then
    andThen (mayWrite s a) fun _ =>
    andThen (mayWrite s (a + 1#16)) fun _ =>
    .next ((s.putOctet a (splitWord s.cfg.byteOrder v).1).putOctet (a + 1#16) (splitWord s.cfg.byteOrder v).2)
  else .refused (.misaligned a)

/-! ### The stack -/

/-- `Push(v)` (R202). -/
def push (v : Word) (s : State) : Result State :=
  writeWord (s.setReg .sp (s.sp - 2#16)) (s.sp - 2#16) v

/-- `Pop()` (R202), whose read is the `k`-th access of the step. -/
def pop (k : Nat) (s : State) : Result (Word × State) :=
  andThen (readWord s k s.sp) fun t => .next (t, s.setReg .sp (s.sp + 2#16))

/-! ### IO -/

/-- A datum of the IO space, `IO_DATA_WIDTH` bits, zero-extended to 16 (R60, R231). -/
def ioDatum (c : Config) (v : Word) : Word :=
  match c.ioDataWidth with
  | .sixteen => v
  | .eight => 0#8 ++ v.extractLsb' 0 8

/-- `IORead(port)` (R60): the next listed answer, else a free one, and the state after it. -/
def ioRead (port : Byte) (s : State) : Word × State :=
  match s.ioInputs with
  | v :: rest => (ioDatum s.cfg v, { s with ioInputs := rest })
  | [] => (ioDatum s.cfg (Config.freeIoAnswer s.boundary port), s)

/-- `IOWrite(port, v)` (R60): an output event. -/
def ioWrite (port : Byte) (v : Word) (s : State) : State :=
  { s with outputs := s.outputs ++ [.io port (ioDatum s.cfg v)] }

/-! ### Interrupts -/

/-- `CanAccept()` (R241, R242): interrupts are enabled and none is in service. -/
def canAccept (s : State) : Bool := s.ia != 0#16 && !s.flags.interrupt

/-- `InterruptEntry(m)` (R250): push PC, push R1, R1 gets the message, PC gets IA, IF is set. -/
def interruptEntry (m : Word) (s : State) : Result State :=
  andThen (push s.pc s) fun s1 =>
  andThen (push (s1.reg .r1) s1) fun s2 =>
  .next (((s2.setReg .r1 m).setPc s2.ia).setInterrupt true)

/-- `raise DivisionError` (R245, R247): DE is set always, the entry with message 0 is made where it can be accepted. -/
def divisionError (s : State) : Result State :=
  if canAccept s then interruptEntry 0#16 (s.setDivError true) else .next (s.setDivError true)

/-- A software interrupt with message `m` (R221, R246): the entry where it can be accepted, else nothing. -/
def softwareInterrupt (m : Word) (s : State) : Result State :=
  if canAccept s then interruptEntry m s else .next s

/-- The return from an interrupt (R224, R255): pop R1, clear IF, pop PC. -/
def returnFromInterrupt (s : State) : Result State :=
  andThen (pop 2 s) fun p =>
  andThen (pop 3 ((p.2.setReg .r1 p.1).setInterrupt false)) fun q =>
  .next (q.2.setPc q.1)

/-! ### The input lines -/

/-- The input lines at this boundary: the first listed sample, else free values (R248, log 15). -/
def State.pins (s : State) : Pins :=
  match s.inputs with
  | p :: _ => p
  | [] => { intLow := Config.freeIntLow s.boundary, dataBus := Config.freeDataBus s.boundary }

/-- The boundary has been passed: its sample is used up and the step is counted. -/
def State.tick (s : State) : State := { s with inputs := s.inputs.tail, boundary := s.boundary + 1 }

/-- Reset (R280), an event from outside, here between two steps (log 22; in the middle of one: `resetWithin`): every
register 0, awake; RAM, the devices and what the outside will do are not touched. -/
def applyReset (s : State) : State :=
  { s with regs := RegFile.zero, pc := 0#16, flags := Flags.zero, y := 0#16, ia := 0#16, asleep := false }

end Sys2Proof.Machine
end

