-- ==== Sys2Proof/Machine/Operands.lean ====
section
/-! DEFINITION. The operand forms: literals, the effective address of the RAM instructions, jump targets, IO ports. -/

namespace Sys2Proof.Machine

/-- `Lit4` (R90): a short literal is zero-extended, a literal word stands as it is. -/
def litValue : Lit → Word
  | .short v => v.setWidth 16
  | .word w => w

/-- The FLAGS register as a word (R30, R35): bit 3 OF, bit 2 CF, bit 1 DE, bit 0 IF, the rest 0. -/
def flagsWord (f : Flags) : Word :=
  0#12 ++ BitVec.ofBool f.overflow ++ BitVec.ofBool f.carry ++ BitVec.ofBool f.divError ++ BitVec.ofBool f.interrupt

/-- `EA()` of the forms `[REG1 + REG2]` (R120). -/
def eaIndex (ra rb : Reg) (s : State) : Word := s.reg ra + s.reg rb

/-- `EA()` of the forms `[REG1 + LITERAL]` (R120). -/
def eaLit (ra : Reg) (l : Lit) (s : State) : Word := s.reg ra + litValue l

/-- The target of an absolute JMP or CALL (R191, R194). -/
def absTarget (l : Lit) (rc : Reg) (s : State) : Word := s.reg rc + litValue l

/-- The target of a relative JMP or CALL (R91, R192, R195): PC, already advanced, plus the signed 9-bit literal, unscaled. -/
def relTarget (d : BitVec 9) (s : State) : Word := s.pc + d.signExtend 16

/-- The IO address of an operand (R230): its low 8 bits. -/
def portOf (b : Word) : Byte := b.extractLsb' 0 8

end Sys2Proof.Machine
end

