-- ==== Sys2Proof/Machine/Flags.lean ====
section
/-! DEFINITION. What the arithmetic computes: results and flags, on exact integers that are narrowed at the end. -/

namespace Sys2Proof.Machine

/-- Whether an exact signed result lies in -32768 to 32767 (R31). -/
def fitsSigned (v : Int) : Bool := decide (-32768 ≤ v) && decide (v ≤ 32767)

/-- The result of ADD and ADDC, with carry in `c` (R131, R132). -/
def addValue (a b : Word) (c : Bool) : Word := BitVec.ofNat 16 (a.toNat + b.toNat + c.toNat)

/-- The flags of ADD and ADDC (R131, R132): CF on carry out, OF when the signed sum does not fit. -/
def addFlags (f : Flags) (a b : Word) (c : Bool) : Flags :=
  { f with
    carry := decide (65536 ≤ a.toNat + b.toNat + c.toNat)
    overflow := !fitsSigned (a.toInt + b.toInt + (c.toNat : Int)) }

/-- The result of SUB and SUBC, with borrow in `c` (R133, R134). -/
def subValue (a b : Word) (c : Bool) : Word := BitVec.ofInt 16 ((a.toNat : Int) - b.toNat - c.toNat)

/-- The flags of SUB and SUBC (R133, R134): CF on borrow, OF when the signed difference does not fit. -/
def subFlags (f : Flags) (a b : Word) (c : Bool) : Flags :=
  { f with
    carry := decide ((a.toNat : Int) - b.toNat - c.toNat < 0)
    overflow := !fitsSigned (a.toInt - b.toInt - (c.toNat : Int)) }

/-- SLL of `a` by `n` with CF before (R140, R141): the result and CF after. -/
def sllValue (a : Word) (n : Nat) (cf : Bool) : Word × Bool :=
  if n = 0 then (a, cf)
  else if n ≤ 16 then (BitVec.ofNat 16 (a.toNat * 2 ^ n), a.getLsbD (16 - n))
  else (0#16, false)

/-- SRL of `a` by `n` with CF before (R140, R142): the result and CF after. -/
def srlValue (a : Word) (n : Nat) (cf : Bool) : Word × Bool :=
  if n = 0 then (a, cf)
  else if n ≤ 16 then (BitVec.ofNat 16 (a.toNat / 2 ^ n), a.getLsbD (n - 1))
  else (0#16, false)

/-- SRA of `a` by `n` with CF before (R140, R143): the result and CF after. -/
def sraValue (a : Word) (n : Nat) (cf : Bool) : Word × Bool :=
  if n = 0 then (a, cf)
  else if n ≤ 15 then (BitVec.ofInt 16 (a.toInt / (2 ^ n : Int)), a.getLsbD (n - 1))
  else (if a.getLsbD 15 then 0xFFFF#16 else 0#16, a.getLsbD 15)

/-- ROTL of `a` by `n`, of which only `n mod 16` matters (R144, R145). -/
def rotlValue (a : Word) (n : Nat) : Word :=
  let k := n % 16
  BitVec.ofNat 16 (a.toNat * 2 ^ k) ||| BitVec.ofNat 16 (a.toNat / 2 ^ (16 - k))

/-- ROTR of `a` by `n`, of which only `n mod 16` matters (R144, R146). -/
def rotrValue (a : Word) (n : Nat) : Word :=
  let k := n % 16
  BitVec.ofNat 16 (a.toNat / 2 ^ k) ||| BitVec.ofNat 16 (a.toNat * 2 ^ (16 - k))

/-- The 32-bit product of MUL (R150), unsigned or signed. -/
def product (signed : Bool) (a b : Word) : BitVec 32 :=
  match signed with
  | false => BitVec.ofNat 32 (a.toNat * b.toNat)
  | true => BitVec.ofInt 32 (a.toInt * b.toInt)

/-- A signed quotient (R152, R155): exact where the divisor divides, else rounded down or up as a free value says; the
quotient of -2^31 / -1 is a free value (log 8). -/
def signedQuotient (n : BitVec 32) (b : Word) : BitVec 32 :=
  if n.toInt = -2147483648 ∧ b.toInt = -1 then Config.signedDivOverflow
  else
    let low := n.toInt.fdiv b.toInt
    if low * b.toInt = n.toInt then BitVec.ofInt 32 low
    else if Config.signedRoundsUp n b then BitVec.ofInt 32 (low + 1)
    else BitVec.ofInt 32 low

/-- The 32-bit quotient of DIV by a divisor that is not 0 (R152), unsigned or signed. -/
def quotient (signed : Bool) (n : BitVec 32) (b : Word) : BitVec 32 :=
  match signed with
  | false => BitVec.ofNat 32 (n.toNat / b.toNat)
  | true => signedQuotient n b

/-- The high half of a 32-bit value, the one Y takes (R150, R152). -/
def highHalf (p : BitVec 32) : Word := p.extractLsb' 16 16

/-- The low half of a 32-bit value (R150, R152). -/
def lowHalf (p : BitVec 32) : Word := p.extractLsb' 0 16

/-- What LOAD.B writes (R122): the octet, under bits 15 to 8 as `LOADB_HIGH` says. -/
def loadbValue (h : LoadbHigh) (free : Byte) (old : Word) (b : Byte) : Word :=
  match h with
  | .zero => 0#8 ++ b
  | .preserve => old.extractLsb' 8 8 ++ b
  | .any => free ++ b

/-- XCHG (R184): the two bytes change places. -/
def xchgValue (a : Word) : Word := a.extractLsb' 0 8 ++ a.extractLsb' 8 8

/-- SXTBD (R185): the low byte, sign-extended. -/
def sxtbdValue (a : Word) : Word := (a.extractLsb' 0 8).signExtend 16

end Sys2Proof.Machine
end

