-- ==== Sys2Proof/Machine/Alu.lean ====
section
/-! DEFINITION. ADD, ADDC, SUB, SUBC, NOT, NEG, AND, OR, XOR (41_alu.md sections 1 to 3). -/

namespace Sys2Proof.Machine

/-- Addition of `b` and a carry in to a register (R130 to R132): result, CF and OF. -/
def addTo (rc : Reg) (b : Word) (c : Bool) (s : State) : Result State :=
  .next ((s.setReg rc (addValue (s.reg rc) b c)).setFlags (addFlags s.flags (s.reg rc) b c))

/-- Subtraction of `b` and a borrow in from a register (R130, R133, R134): result, CF and OF. -/
def subFrom (rc : Reg) (b : Word) (c : Bool) (s : State) : Result State :=
  .next ((s.setReg rc (subValue (s.reg rc) b c)).setFlags (subFlags s.flags (s.reg rc) b c))

/-- An operation on a register that writes no flag. -/
def assign (rc : Reg) (v : Word) (s : State) : Result State := .next (s.setReg rc v)

/-- `ADD REG3, REG2` (R131). -/
def execAddR (rb rc : Reg) (s : State) : Result State := addTo rc (s.reg rb) false s

/-- `ADD REG3, LITERAL` (R131). -/
def execAddL (l : Lit) (rc : Reg) (s : State) : Result State := addTo rc (litValue l) false s

/-- `ADDC REG3, REG2` (R132). -/
def execAddcR (rb rc : Reg) (s : State) : Result State := addTo rc (s.reg rb) s.flags.carry s

/-- `SUB REG3, REG2` (R133). -/
def execSubR (rb rc : Reg) (s : State) : Result State := subFrom rc (s.reg rb) false s

/-- `SUB REG3, LITERAL` (R133). -/
def execSubL (l : Lit) (rc : Reg) (s : State) : Result State := subFrom rc (litValue l) false s

/-- `SUBC REG3, REG2` (R134). -/
def execSubcR (rb rc : Reg) (s : State) : Result State := subFrom rc (s.reg rb) s.flags.carry s

/-- `SUBC REG3, LITERAL` (R134). -/
def execSubcL (l : Lit) (rc : Reg) (s : State) : Result State := subFrom rc (litValue l) s.flags.carry s

/-- `NOT REG3` (R135). -/
def execNotR (rc : Reg) (s : State) : Result State := assign rc (s.reg rc ^^^ 0xFFFF#16) s

/-- `NEG REG3` (R136). -/
def execNegR (rc : Reg) (s : State) : Result State := assign rc (0#16 - s.reg rc) s

/-- `AND REG3, REG2` (R137). -/
def execAndR (rb rc : Reg) (s : State) : Result State := assign rc (s.reg rc &&& s.reg rb) s

/-- `OR REG3, REG2` (R138). -/
def execOrR (rb rc : Reg) (s : State) : Result State := assign rc (s.reg rc ||| s.reg rb) s

/-- `XOR REG3, REG2` (R139). -/
def execXorR (rb rc : Reg) (s : State) : Result State := assign rc (s.reg rc ^^^ s.reg rb) s

end Sys2Proof.Machine
end

