-- ==== Sys2Proof/Machine/Skip.lean ====
section
/-! DEFINITION. The skip chain of a failed test (42_branch.md R161, R162). -/

namespace Sys2Proof.Machine

/-- `IsConditional` (R162). -/
def isConditional : Instr → Bool
  | .loadL _ _ _ => false
  | .loadR _ _ _ => false
  | .loadbL _ _ _ => false
  | .loadbR _ _ _ => false
  | .storeL _ _ _ => false
  | .storeR _ _ _ => false
  | .storebL _ _ _ => false
  | .storebR _ _ _ => false
  | .addR _ _ => false
  | .addL _ _ => false
  | .subR _ _ => false
  | .subL _ _ => false
  | .addcR _ _ => false
  | .subcR _ _ => false
  | .subcL _ _ => false
  | .andR _ _ => false
  | .orR _ _ => false
  | .xorR _ _ => false
  | .sllR _ _ => false
  | .sllL _ _ => false
  | .srlR _ _ => false
  | .srlL _ _ => false
  | .sraR _ _ => false
  | .sraL _ _ => false
  | .rotlR _ _ => false
  | .rotlL _ _ => false
  | .rotrR _ _ => false
  | .rotrL _ _ => false
  | .mulR _ _ => false
  | .mulL _ _ => false
  | .divR _ _ => false
  | .divL _ _ => false
  | .swp _ _ => false
  | .cpy _ _ => false
  | .setL _ _ => false
  | .beqR _ _ => true
  | .beqL _ _ => true
  | .bneqR _ _ => true
  | .bneqL _ _ => true
  | .bgR _ _ => true
  | .bgL _ _ => true
  | .bgeR _ _ => true
  | .bgeL _ _ => true
  | .bugR _ _ => true
  | .bugL _ _ => true
  | .bugeR _ _ => true
  | .bugeL _ _ => true
  | .bbits _ _ => true
  | .bclear _ _ => true
  | .inpR _ _ => false
  | .inpL _ _ => false
  | .outR _ _ => false
  | .outL _ _ => false
  | .jmpAbs _ _ => false
  | .callAbs _ _ => false
  | .notR _ => false
  | .negR _ => false
  | .xchg _ => false
  | .sxtbd _ => false
  | .push _ => false
  | .pop _ => false
  | .getpc _ => false
  | .getflags _ => false
  | .setyR _ => false
  | .setyL _ => false
  | .gety _ => false
  | .intR _ => false
  | .intL _ => false
  | .getia _ => false
  | .setiaR _ => false
  | .setiaL _ => false
  | .reserved _ => false
  | .jmpRel _ => false
  | .callRel _ => false
  | .nop => false
  | .sleep => false
  | .ret => false
  | .rfi => false
  | .clrdiverr => false
  | .bovf => true
  | .bocf => true
  | .unassigned _ => false

/-- Whether an instruction stands for R105's `Illegal`. -/
def isIllegal : Instr → Bool
  | .reserved _ => true
  | .unassigned _ => true
  | _ => false

/-- `SkipChain()` (R161) from `pc` on, over at most `n` instructions: the address after the chain. There are 0x10000
addresses, so a chain over plain memory that goes on longer has come back to where it was and never ends (log 20). The
accesses of the chain are numbered from 4 up (log 12). -/
def skipFrom (s : State) : Nat → Word → Result Word
  | 0, _ => .fault .endlessSkip
  | n + 1, pc =>
    andThen (readWord s (n + 4) pc) fun v =>
    match decodeFirst s.cfg v with
    | .error _ => .refused (.skipOverIllegal v)
    | .ok i =>
      if isIllegal i then .refused (.skipOverIllegal v)
      else if isConditional i then skipFrom s n (pc + BitVec.ofNat 16 (2 * i.words))
      else .next (pc + BitVec.ofNat 16 (2 * i.words))

/-- `SkipChain()` (R161). -/
def skipChain (s : State) : Result State :=
  andThen (skipFrom s 0x10000 s.pc) fun pc => .next (s.setPc pc)

/-- A conditional instruction (R160): the next instruction runs when the test holds, else the chain is skipped. -/
def conditional (test : Bool) (s : State) : Result State :=
  if test then .next s else skipChain s

end Sys2Proof.Machine
end

