-- ==== Sys2Proof/Machine/Branch.lean ====
section
/-! DEFINITION. The conditional instructions (42_branch.md). -/

namespace Sys2Proof.Machine

/-- `BEQ REG3, REG2` (R163). -/
def execBeqR (rb rc : Reg) (s : State) : Result State := conditional (s.reg rc == s.reg rb) s

/-- `BEQ REG3, LITERAL` (R163). -/
def execBeqL (l : Lit) (rc : Reg) (s : State) : Result State := conditional (s.reg rc == litValue l) s

/-- `BNEQ REG3, REG2` (R164). -/
def execBneqR (rb rc : Reg) (s : State) : Result State := conditional (s.reg rc != s.reg rb) s

/-- `BNEQ REG3, LITERAL` (R164). -/
def execBneqL (l : Lit) (rc : Reg) (s : State) : Result State := conditional (s.reg rc != litValue l) s

/-- `BG REG3, REG2` (R165). -/
def execBgR (rb rc : Reg) (s : State) : Result State := conditional (decide ((s.reg rc).toInt > (s.reg rb).toInt)) s

/-- `BG REG3, LITERAL` (R165). -/
def execBgL (l : Lit) (rc : Reg) (s : State) : Result State := conditional (decide ((s.reg rc).toInt > (litValue l).toInt)) s

/-- `BGE REG3, REG2` (R166). -/
def execBgeR (rb rc : Reg) (s : State) : Result State := conditional (decide ((s.reg rc).toInt ≥ (s.reg rb).toInt)) s

/-- `BGE REG3, LITERAL` (R166). -/
def execBgeL (l : Lit) (rc : Reg) (s : State) : Result State := conditional (decide ((s.reg rc).toInt ≥ (litValue l).toInt)) s

/-- `BUG REG3, REG2` (R167). -/
def execBugR (rb rc : Reg) (s : State) : Result State := conditional (decide ((s.reg rc).toNat > (s.reg rb).toNat)) s

/-- `BUG REG3, LITERAL` (R167). -/
def execBugL (l : Lit) (rc : Reg) (s : State) : Result State := conditional (decide ((s.reg rc).toNat > (litValue l).toNat)) s

/-- `BUGE REG3, REG2` (R168). -/
def execBugeR (rb rc : Reg) (s : State) : Result State := conditional (decide ((s.reg rc).toNat ≥ (s.reg rb).toNat)) s

/-- `BUGE REG3, LITERAL` (R168). -/
def execBugeL (l : Lit) (rc : Reg) (s : State) : Result State := conditional (decide ((s.reg rc).toNat ≥ (litValue l).toNat)) s

/-- `BBITS REG3, REG2` (R169). -/
def execBbits (rb rc : Reg) (s : State) : Result State := conditional ((s.reg rc &&& s.reg rb) != 0#16) s

/-- `BCLEAR REG3, REG2` (R170). -/
def execBclear (rb rc : Reg) (s : State) : Result State := conditional ((s.reg rc &&& s.reg rb) == 0#16) s

/-- `BOVF` (R171). -/
def execBovf (s : State) : Result State := conditional s.flags.overflow s

/-- `BOCF` (R172). -/
def execBocf (s : State) : Result State := conditional s.flags.carry s

end Sys2Proof.Machine
end

