-- ==== Sys2Proof/Machine/Illegal.lean ====
section
/-! DEFINITION. The words that are no instruction (30_encoding.md R105, D2): `ILLEGAL_POLICY = refuse`, its only value, gives
them no meaning. -/

namespace Sys2Proof.Machine

/-- A word that is no instruction is to be executed (R105). -/
def illegalWordStop (w : Word) (s : State) : Result State :=
  match s.cfg.illegal with
  | .refuse => .refused (.illegalWord w)

/-- A reserved word, 0x3000 to 0x3FFF (R105). -/
def execReserved (x : BitVec 12) (s : State) : Result State := illegalWordStop (0x3#4 ++ x) s

/-- A word that no line assigns (R105). -/
def execUnassigned (w : Word) (s : State) : Result State := illegalWordStop w s

end Sys2Proof.Machine
end

