-- ==== Sys2Proof/Machine/Interrupt.lean ====
section
/-! DEFINITION. INT, GETIA, SETIA, RFI (47_interrupt_instr.md). -/

namespace Sys2Proof.Machine

/-- `INT REG3` (R221): the message is the register's value before the entry. -/
def execIntR (rc : Reg) (s : State) : Result State := softwareInterrupt (s.reg rc) s

/-- `INT LITERAL` (R221). -/
def execIntL (l : Lit) (s : State) : Result State := softwareInterrupt (litValue l) s

/-- `GETIA REG3` (R222). -/
def execGetia (rc : Reg) (s : State) : Result State := assign rc s.ia s

/-- `SETIA REG3` (R223). -/
def execSetiaR (rc : Reg) (s : State) : Result State := .next (s.setIa (s.reg rc))

/-- `SETIA LITERAL` (R223). -/
def execSetiaL (l : Lit) (s : State) : Result State := .next (s.setIa (litValue l))

/-- `RFI` (R224). -/
def execRfi (s : State) : Result State := returnFromInterrupt s

end Sys2Proof.Machine
end

