-- ==== Sys2Proof/Machine/Io.lean ====
section
/-! DEFINITION. INP and OUT (48_io.md). -/

namespace Sys2Proof.Machine

/-- INP from the port of an operand (R231). -/
def inpFrom (b : Word) (rc : Reg) (s : State) : Result State :=
  .next ((ioRead (portOf b) s).2.setReg rc (ioRead (portOf b) s).1)

/-- OUT to the port of an operand (R232). -/
def outTo (b : Word) (rc : Reg) (s : State) : Result State := .next (ioWrite (portOf b) (s.reg rc) s)

/-- `INP REG3, REG2` (R231). -/
def execInpR (rb rc : Reg) (s : State) : Result State := inpFrom (s.reg rb) rc s

/-- `INP REG3, LITERAL` (R231). -/
def execInpL (l : Lit) (rc : Reg) (s : State) : Result State := inpFrom (litValue l) rc s

/-- `OUT REG3, REG2` (R232). -/
def execOutR (rb rc : Reg) (s : State) : Result State := outTo (s.reg rb) rc s

/-- `OUT REG3, LITERAL` (R232). -/
def execOutL (l : Lit) (rc : Reg) (s : State) : Result State := outTo (litValue l) rc s

end Sys2Proof.Machine
end

