-- ==== Sys2Proof/Machine/Jump.lean ====
section
/-! DEFINITION. JMP, CALL, RET (44_jump.md). -/

namespace Sys2Proof.Machine

/-- A jump to a target. -/
def jumpTo (t : Word) (s : State) : Result State := .next (s.setPc t)

/-- A call of a target, which has been computed before the push (R194, R195): push PC, then jump. -/
def callTo (t : Word) (s : State) : Result State := andThen (push s.pc s) fun u => .next (u.setPc t)

/-- `JMP [REG3 + LITERAL]` (R191). -/
def execJmpAbs (l : Lit) (rc : Reg) (s : State) : Result State := jumpTo (absTarget l rc s) s

/-- `JMP [LITERAL]` (R192). -/
def execJmpRel (d : BitVec 9) (s : State) : Result State := jumpTo (relTarget d s) s

/-- `CALL [REG3 + LITERAL]` (R194). -/
def execCallAbs (l : Lit) (rc : Reg) (s : State) : Result State := callTo (absTarget l rc s) s

/-- `CALL [LITERAL]` (R195). -/
def execCallRel (d : BitVec 9) (s : State) : Result State := callTo (relTarget d s) s

/-- `RET` (R196). -/
def execRet (s : State) : Result State := andThen (pop 2 s) fun p => .next (p.2.setPc p.1)

end Sys2Proof.Machine
end

