-- ==== Sys2Proof/Machine/Muldiv.lean ====
section
/-! DEFINITION. MUL and DIV (41_alu.md section 6). -/

namespace Sys2Proof.Machine

/-- MUL by `b` (R150): the product in Y and the register. -/
def mulBy (rc : Reg) (b : Word) (s : State) : Result State :=
  let p := product s.cfg.muldivSigned (s.reg rc) b
  .next ((s.setY (highHalf p)).setReg rc (lowHalf p))

/-- DIV by `b` (R152): a divisor of 0 is the division error, else the quotient in Y and the register. -/
def divBy (rc : Reg) (b : Word) (s : State) : Result State :=
  if b = 0#16 then divisionError s
  else
    let q := quotient s.cfg.muldivSigned (s.y ++ s.reg rc) b
    .next ((s.setY (highHalf q)).setReg rc (lowHalf q))

/-- `MUL REG3, REG2` (R150). -/
def execMulR (rb rc : Reg) (s : State) : Result State := mulBy rc (s.reg rb) s

/-- `MUL REG3, LITERAL` (R150). -/
def execMulL (l : Lit) (rc : Reg) (s : State) : Result State := mulBy rc (litValue l) s

/-- `DIV REG3, REG2` (R152). -/
def execDivR (rb rc : Reg) (s : State) : Result State := divBy rc (s.reg rb) s

/-- `DIV REG3, LITERAL` (R152). -/
def execDivL (l : Lit) (rc : Reg) (s : State) : Result State := divBy rc (litValue l) s

end Sys2Proof.Machine
end

