-- ==== Sys2Proof/Machine/Ram.lean ====
section
/-! DEFINITION. LOAD, LOAD.B, STORE, STORE.B (40_ram.md). -/

namespace Sys2Proof.Machine

/-- LOAD from an effective address (R121); the read is access 2 of the step. -/
def loadAt (a : Word) (rc : Reg) (s : State) : Result State :=
  andThen (readWord s 2 a) fun v => .next (s.setReg rc v)

/-- LOAD.B from an effective address (R122). -/
def loadbAt (a : Word) (rc : Reg) (s : State) : Result State :=
  andThen (readOctet s 2 a) fun b =>
  .next (s.setReg rc (loadbValue s.cfg.loadbHigh (Config.freeHighByte s.boundary) (s.reg rc) b))

/-- STORE to an effective address (R123). -/
def storeAt (a : Word) (rc : Reg) (s : State) : Result State := writeWord s a (s.reg rc)

/-- STORE.B to an effective address (R124). -/
def storebAt (a : Word) (rc : Reg) (s : State) : Result State := writeOctet s a ((s.reg rc).extractLsb' 0 8)

/-- `LOAD [REG1 + LITERAL], REG3` (R121). -/
def execLoadL (ra : Reg) (l : Lit) (rc : Reg) (s : State) : Result State := loadAt (eaLit ra l s) rc s

/-- `LOAD [REG1 + REG2], REG3` (R121). -/
def execLoadR (ra rb rc : Reg) (s : State) : Result State := loadAt (eaIndex ra rb s) rc s

/-- `LOAD.B [REG1 + LITERAL], REG3` (R122). -/
def execLoadbL (ra : Reg) (l : Lit) (rc : Reg) (s : State) : Result State := loadbAt (eaLit ra l s) rc s

/-- `LOAD.B [REG1 + REG2], REG3` (R122). -/
def execLoadbR (ra rb rc : Reg) (s : State) : Result State := loadbAt (eaIndex ra rb s) rc s

/-- `STORE [REG1 + LITERAL], REG3` (R123). -/
def execStoreL (ra : Reg) (l : Lit) (rc : Reg) (s : State) : Result State := storeAt (eaLit ra l s) rc s

/-- `STORE [REG1 + REG2], REG3` (R123). -/
def execStoreR (ra rb rc : Reg) (s : State) : Result State := storeAt (eaIndex ra rb s) rc s

/-- `STORE.B [REG1 + LITERAL], REG3` (R124). -/
def execStorebL (ra : Reg) (l : Lit) (rc : Reg) (s : State) : Result State := storebAt (eaLit ra l s) rc s

/-- `STORE.B [REG1 + REG2], REG3` (R124). -/
def execStorebR (ra rb rc : Reg) (s : State) : Result State := storebAt (eaIndex ra rb s) rc s

end Sys2Proof.Machine
end

