-- ==== Sys2Proof/Machine/Register.lean ====
section
/-! DEFINITION. SWP, CPY, SET, XCHG, SXTBD (43_register.md). -/

namespace Sys2Proof.Machine

/-- `SWP REG3, REG2` (R181): both values are read before either is written. -/
def execSwp (rb rc : Reg) (s : State) : Result State := .next ((s.setReg rc (s.reg rb)).setReg rb (s.reg rc))

/-- `CPY REG3, REG2` (R182). -/
def execCpy (rb rc : Reg) (s : State) : Result State := assign rc (s.reg rb) s

/-- `SET REG3, LITERAL` (R183). -/
def execSetL (l : Lit) (rc : Reg) (s : State) : Result State := assign rc (litValue l) s

/-- `XCHG REG3` (R184). -/
def execXchg (rc : Reg) (s : State) : Result State := assign rc (xchgValue (s.reg rc)) s

/-- `SXTBD REG3` (R185). -/
def execSxtbd (rc : Reg) (s : State) : Result State := assign rc (sxtbdValue (s.reg rc)) s

end Sys2Proof.Machine
end

