-- ==== Sys2Proof/Machine/Shift.lean ====
section
/-! DEFINITION. SLL, SRL, SRA, ROTL, ROTR (41_alu.md sections 4 and 5). -/

namespace Sys2Proof.Machine

/-- A shift of a register (R140): the result and CF, both as they were for an amount of 0. -/
def shiftBy (f : Word → Nat → Bool → Word × Bool) (rc : Reg) (b : Word) (s : State) : Result State :=
  .next ((s.setReg rc (f (s.reg rc) b.toNat s.flags.carry).1).setCarry (f (s.reg rc) b.toNat s.flags.carry).2)

/-- `SLL REG3, REG2` (R141). -/
def execSllR (rb rc : Reg) (s : State) : Result State := shiftBy sllValue rc (s.reg rb) s

/-- `SLL REG3, LITERAL` (R141). -/
def execSllL (l : Lit) (rc : Reg) (s : State) : Result State := shiftBy sllValue rc (litValue l) s

/-- `SRL REG3, REG2` (R142). -/
def execSrlR (rb rc : Reg) (s : State) : Result State := shiftBy srlValue rc (s.reg rb) s

/-- `SRL REG3, LITERAL` (R142). -/
def execSrlL (l : Lit) (rc : Reg) (s : State) : Result State := shiftBy srlValue rc (litValue l) s

/-- `SRA REG3, REG2` (R143). -/
def execSraR (rb rc : Reg) (s : State) : Result State := shiftBy sraValue rc (s.reg rb) s

/-- `SRA REG3, LITERAL` (R143). -/
def execSraL (l : Lit) (rc : Reg) (s : State) : Result State := shiftBy sraValue rc (litValue l) s

/-- `ROTL REG3, REG2` (R145). -/
def execRotlR (rb rc : Reg) (s : State) : Result State := assign rc (rotlValue (s.reg rc) (s.reg rb).toNat) s

/-- `ROTL REG3, LITERAL` (R145). -/
def execRotlL (l : Lit) (rc : Reg) (s : State) : Result State := assign rc (rotlValue (s.reg rc) (litValue l).toNat) s

/-- `ROTR REG3, REG2` (R146). -/
def execRotrR (rb rc : Reg) (s : State) : Result State := assign rc (rotrValue (s.reg rc) (s.reg rb).toNat) s

/-- `ROTR REG3, LITERAL` (R146). -/
def execRotrL (l : Lit) (rc : Reg) (s : State) : Result State := assign rc (rotrValue (s.reg rc) (litValue l).toNat) s

end Sys2Proof.Machine
end

