-- ==== Sys2Proof/Machine/Special.lean ====
section
/-! DEFINITION. NOP, SLEEP, GETPC, GETFLAGS, SETY, GETY, CLRDIVERR (46_special.md). -/

namespace Sys2Proof.Machine

/-- `NOP` (R205). -/
def execNop (s : State) : Result State := .next s

/-- `SLEEP` (R206). -/
def execSleep (s : State) : Result State := .next (s.setAsleep true)

/-- What GETPC reads (R207): PC has moved past its one word, to `A + 2`; `GETPC_OFFSET = 4` gives `A + 4`. -/
def getpcValue (s : State) : Word :=
  match s.cfg.getpcOffset with
  | .two => s.pc
  | .four => s.pc + 2#16

/-- `GETPC REG3` (R207). -/
def execGetpc (rc : Reg) (s : State) : Result State := assign rc (getpcValue s) s

/-- `GETFLAGS REG3` (R208). -/
def execGetflags (rc : Reg) (s : State) : Result State := assign rc (flagsWord s.flags) s

/-- `SETY REG3` (R209). -/
def execSetyR (rc : Reg) (s : State) : Result State := .next (s.setY (s.reg rc))

/-- `SETY LITERAL` (R209). -/
def execSetyL (l : Lit) (s : State) : Result State := .next (s.setY (litValue l))

/-- `GETY REG3` (R210). -/
def execGety (rc : Reg) (s : State) : Result State := assign rc s.y s

/-- `CLRDIVERR` (R211). -/
def execClrdiverr (s : State) : Result State := .next (s.setDivError false)

end Sys2Proof.Machine
end

