-- ==== Sys2Proof/Machine/Stack.lean ====
section
/-! DEFINITION. PUSH and POP (45_stack.md). -/

namespace Sys2Proof.Machine

/-- `PUSH REG3` (R200): the value is read before SP changes. -/
def execPush (rc : Reg) (s : State) : Result State := push (s.reg rc) s

/-- `POP REG3` (R201): the register is written last. -/
def execPop (rc : Reg) (s : State) : Result State := andThen (pop 2 s) fun p => .next (p.2.setReg rc p.1)

end Sys2Proof.Machine
end

