-- ==== Sys2Proof/Machine/Dispatch.lean ====
section
/-! DEFINITION. `exec`: the meaning of each instruction, one arm per constructor of `Instr`. -/

namespace Sys2Proof.Machine

def exec (i : Instr) (s : State) : Host.Outcome State Fault Refusal :=
  match i with
  | .loadL ra l rc => Sys2Proof.Machine.execLoadL ra l rc s
  | .loadR ra rb rc => Sys2Proof.Machine.execLoadR ra rb rc s
  | .loadbL ra l rc => Sys2Proof.Machine.execLoadbL ra l rc s
  | .loadbR ra rb rc => Sys2Proof.Machine.execLoadbR ra rb rc s
  | .storeL ra l rc => Sys2Proof.Machine.execStoreL ra l rc s
  | .storeR ra rb rc => Sys2Proof.Machine.execStoreR ra rb rc s
  | .storebL ra l rc => Sys2Proof.Machine.execStorebL ra l rc s
  | .storebR ra rb rc => Sys2Proof.Machine.execStorebR ra rb rc s
  | .addR rb rc => Sys2Proof.Machine.execAddR rb rc s
  | .addL l rc => Sys2Proof.Machine.execAddL l rc s
  | .subR rb rc => Sys2Proof.Machine.execSubR rb rc s
  | .subL l rc => Sys2Proof.Machine.execSubL l rc s
  | .addcR rb rc => Sys2Proof.Machine.execAddcR rb rc s
  | .subcR rb rc => Sys2Proof.Machine.execSubcR rb rc s
  | .subcL l rc => Sys2Proof.Machine.execSubcL l rc s
  | .andR rb rc => Sys2Proof.Machine.execAndR rb rc s
  | .orR rb rc => Sys2Proof.Machine.execOrR rb rc s
  | .xorR rb rc => Sys2Proof.Machine.execXorR rb rc s
  | .sllR rb rc => Sys2Proof.Machine.execSllR rb rc s
  | .sllL l rc => Sys2Proof.Machine.execSllL l rc s
  | .srlR rb rc => Sys2Proof.Machine.execSrlR rb rc s
  | .srlL l rc => Sys2Proof.Machine.execSrlL l rc s
  | .sraR rb rc => Sys2Proof.Machine.execSraR rb rc s
  | .sraL l rc => Sys2Proof.Machine.execSraL l rc s
  | .rotlR rb rc => Sys2Proof.Machine.execRotlR rb rc s
  | .rotlL l rc => Sys2Proof.Machine.execRotlL l rc s
  | .rotrR rb rc => Sys2Proof.Machine.execRotrR rb rc s
  | .rotrL l rc => Sys2Proof.Machine.execRotrL l rc s
  | .mulR rb rc => Sys2Proof.Machine.execMulR rb rc s
  | .mulL l rc => Sys2Proof.Machine.execMulL l rc s
  | .divR rb rc => Sys2Proof.Machine.execDivR rb rc s
  | .divL l rc => Sys2Proof.Machine.execDivL l rc s
  | .swp rb rc => Sys2Proof.Machine.execSwp rb rc s
  | .cpy rb rc => Sys2Proof.Machine.execCpy rb rc s
  | .setL l rc => Sys2Proof.Machine.execSetL l rc s
  | .beqR rb rc => Sys2Proof.Machine.execBeqR rb rc s
  | .beqL l rc => Sys2Proof.Machine.execBeqL l rc s
  | .bneqR rb rc => Sys2Proof.Machine.execBneqR rb rc s
  | .bneqL l rc => Sys2Proof.Machine.execBneqL l rc s
  | .bgR rb rc => Sys2Proof.Machine.execBgR rb rc s
  | .bgL l rc => Sys2Proof.Machine.execBgL l rc s
  | .bgeR rb rc => Sys2Proof.Machine.execBgeR rb rc s
  | .bgeL l rc => Sys2Proof.Machine.execBgeL l rc s
  | .bugR rb rc => Sys2Proof.Machine.execBugR rb rc s
  | .bugL l rc => Sys2Proof.Machine.execBugL l rc s
  | .bugeR rb rc => Sys2Proof.Machine.execBugeR rb rc s
  | .bugeL l rc => Sys2Proof.Machine.execBugeL l rc s
  | .bbits rb rc => Sys2Proof.Machine.execBbits rb rc s
  | .bclear rb rc => Sys2Proof.Machine.execBclear rb rc s
  | .inpR rb rc => Sys2Proof.Machine.execInpR rb rc s
  | .inpL l rc => Sys2Proof.Machine.execInpL l rc s
  | .outR rb rc => Sys2Proof.Machine.execOutR rb rc s
  | .outL l rc => Sys2Proof.Machine.execOutL l rc s
  | .jmpAbs l rc => Sys2Proof.Machine.execJmpAbs l rc s
  | .callAbs l rc => Sys2Proof.Machine.execCallAbs l rc s
  | .notR rc => Sys2Proof.Machine.execNotR rc s
  | .negR rc => Sys2Proof.Machine.execNegR rc s
  | .xchg rc => Sys2Proof.Machine.execXchg rc s
  | .sxtbd rc => Sys2Proof.Machine.execSxtbd rc s
  | .push rc => Sys2Proof.Machine.execPush rc s
  | .pop rc => Sys2Proof.Machine.execPop rc s
  | .getpc rc => Sys2Proof.Machine.execGetpc rc s
  | .getflags rc => Sys2Proof.Machine.execGetflags rc s
  | .setyR rc => Sys2Proof.Machine.execSetyR rc s
  | .setyL l => Sys2Proof.Machine.execSetyL l s
  | .gety rc => Sys2Proof.Machine.execGety rc s
  | .intR rc => Sys2Proof.Machine.execIntR rc s
  | .intL l => Sys2Proof.Machine.execIntL l s
  | .getia rc => Sys2Proof.Machine.execGetia rc s
  | .setiaR rc => Sys2Proof.Machine.execSetiaR rc s
  | .setiaL l => Sys2Proof.Machine.execSetiaL l s
  | .reserved x => Sys2Proof.Machine.execReserved x s
  | .jmpRel d => Sys2Proof.Machine.execJmpRel d s
  | .callRel d => Sys2Proof.Machine.execCallRel d s
  | .nop => Sys2Proof.Machine.execNop s
  | .sleep => Sys2Proof.Machine.execSleep s
  | .ret => Sys2Proof.Machine.execRet s
  | .rfi => Sys2Proof.Machine.execRfi s
  | .clrdiverr => Sys2Proof.Machine.execClrdiverr s
  | .bovf => Sys2Proof.Machine.execBovf s
  | .bocf => Sys2Proof.Machine.execBocf s
  | .unassigned w => Sys2Proof.Machine.execUnassigned w s

end Sys2Proof.Machine
end

