-- ==== Sys2Proof/Machine/Fetch.lean ====
section
/-! DEFINITION. Fetching an instruction, the wake test, and one step over any meaning of instructions (60_exceptions.md R270). -/

namespace Sys2Proof.Machine

/-- Fetch and decode the instruction at PC (R82, R83): the first word, the literal word where the first announces one, and
PC moved past them. The first word is access 0 of the step, the literal word access 1. -/
def fetch (s : State) : Result (Instr × State) :=
  andThen (readWord s 0 s.pc) fun w =>
  match decodeFirst s.cfg w with
  | .error _ => .refused (.clashRefused w)
  | .ok i =>
    if i.words = 1 then .next (i, s.setPc (s.pc + 2#16))
    else
      andThen (readWord s 1 (s.pc + 2#16)) fun lit =>
      .next (i.withLit lit, s.setPc (s.pc + 2#16 + 2#16))

/-- The wake test of a sleeping CPU (R206), with the input lines of this boundary. -/
def wakeTest (p : Pins) (s : State) : Result State :=
  match s.cfg.sleepWake with
  | .onlyWhenTaken =>
    if canAccept s && p.intLow then interruptEntry p.dataBus (s.setAsleep false) else .next s
  | .anyIntLine =>
    if p.intLow then
      if canAccept s then interruptEntry p.dataBus (s.setAsleep false) else .next (s.setAsleep false)
    else .next s

/-- One step (R270): the wake test of a sleeping CPU, or the acceptance of a hardware interrupt (R248), or one instruction. -/
def stepWith (run : Instr → State → Result State) (s : State) : Result State :=
  if s.asleep then wakeTest s.pins s.tick
  else if canAccept s && s.pins.intLow then interruptEntry s.pins.dataBus s.tick
  else andThen (fetch s.tick) fun p => run p.1 p.2

/-- Load a word into RAM from outside, as RAM stores it (log 23). -/
def loadWord (s : State) (a : Word) (v : Word) : State :=
  s.setMem ((s.mem.set a.toNat (splitWord s.cfg.byteOrder v).1).set (a + 1#16).toNat (splitWord s.cfg.byteOrder v).2)

/-- A state whose next step fetches the two words at PC: they are loaded there, the CPU is awake, and where an interrupt
could be accepted the next sample of the input lines is idle (log 24). -/
def placeInstr (s : State) (w0 w1 : Word) : State :=
  let t := loadWord (loadWord s s.pc w0) (s.pc + 2#16) w1
  { t with
    asleep := false
    inputs := if canAccept s then { intLow := false, dataBus := 0#16 } :: s.inputs.tail else s.inputs }

end Sys2Proof.Machine
end

