-- ==== Sys2Proof/Machine/Step.lean ====
section
/-! DEFINITION. The step of the machine. -/

namespace Sys2Proof.Machine

/-- One step of the CPU (60_exceptions.md R270). -/
def step (s : State) : Host.Outcome State Fault Refusal := stepWith exec s

/-- The state with the instruction whose bits are `w` stored where the next step fetches it, the bits above `nbits` zero. -/
def State.withFetchWord (s : State) (nbits w : Nat) : State :=
  placeInstr s (tableWords nbits w).1 (tableWords nbits w).2

end Sys2Proof.Machine
end

