-- ==== Sys2Proof/Machine/Reset.lean ====
section
/-! DEFINITION. A reset that arrives in the middle of what the CPU was doing (70_reset_and_hazards.md R280, log 22). -/

namespace Sys2Proof.Machine

/-- The two octets of a word. -/
def bothOctets (a : Word) : List Word := [a, a + 1#16]

/-- The octets that an interrupt entry writes: its two pushes (R250). -/
def entryOctets (s : State) : List Word := bothOctets (s.sp - 2#16) ++ bothOctets (s.sp - 4#16)

/-- The octets that DIV by `b` writes: those of the entry that a division error makes where it can be accepted (R152, R247). -/
def divOctets (b : Word) (s : State) : List Word := if b = 0#16 && canAccept s then entryOctets s else []

/-- The octets that INT writes: those of the entry, where it can be accepted (R221, R246). -/
def intOctets (s : State) : List Word := if canAccept s then entryOctets s else []

/-- The octets that an instruction writes from a state in which PC has moved past it (R61, R203). -/
def instrOctets (i : Instr) (s : State) : List Word :=
  match i with
  | .storeL ra l _ => bothOctets (eaLit ra l s)
  | .storeR ra rb _ => bothOctets (eaIndex ra rb s)
  | .storebL ra l _ => [eaLit ra l s]
  | .storebR ra rb _ => [eaIndex ra rb s]
  | .push _ => bothOctets (s.sp - 2#16)
  | .callAbs _ _ => bothOctets (s.sp - 2#16)
  | .callRel _ => bothOctets (s.sp - 2#16)
  | .intR _ => intOctets s
  | .intL _ => intOctets s
  | .divR rb _ => divOctets (s.reg rb) s
  | .divL l _ => divOctets (litValue l) s
  | _ => []

/-- The octets that the step about to be made writes, of RAM or of a device: those of an interrupt entry or of the
instruction at PC. -/
def stepOctets (s : State) : List Word :=
  if canAccept s && s.pins.intLow then entryOctets s
  else if s.asleep then []
  else
    match fetch s.tick with
    | .next p => instrOctets p.1 p.2
    | .fault _ => []
    | .refused _ => []

/-- RAM octets of a list of addresses take free values (R280; log 22). -/
def loseOctets (s : State) : List Word → State
  | [] => s
  | a :: rest =>
    loseOctets (if s.kindAt a = .ram then s.setMem (s.mem.set a.toNat (Config.abandonedOctet s.boundary a.toNat)) else s) rest

/-- What the outside has seen of a step abandoned on its way from `s` to `t`. DESIGN CHOICE (log 22): a first part, of a
free length, of what it puts out, and whether it has taken its answer from the IO space is free too. -/
def seenOf (s t : State) : State :=
  { s with
    outputs := t.outputs.take (s.outputs.length + Config.abandonedOutputs s.boundary)
    ioInputs := if Config.abandonedInput s.boundary then t.ioInputs else s.ioInputs }

/-- Reset in the middle of the step that `s` is about to make (R280): the step is abandoned, each octet of RAM that it
writes holds a free value, then reset as ever. The sample of this boundary is used up. DESIGN CHOICE (log 22): of a step
that ends in a fault or a refusal, to which the model gives no meaning, nothing has gone out to a device and no answer
of the IO space is used up, also where a first access of it would have reached a device; the octets of RAM that it was
to write are lost like those of any other step. -/
def resetWithin (s : State) : State :=
  match step s with
  | .next t => applyReset (loseOctets (seenOf s t) (stepOctets s)).tick
  | .fault _ => applyReset (loseOctets s (stepOctets s)).tick
  | .refused _ => applyReset (loseOctets s (stepOctets s)).tick

end Sys2Proof.Machine
end

