-- ==== Sys2Proof/Safety.lean ====
section
/-! DEFINITION. The terms that statements about runs use: what an access needs, what an instruction leaves alone, when a run has
ended. -/

namespace Sys2Proof.Machine

/-! ### What an access needs -/

/-- An octet can be read: it stands in no empty region (R66). -/
def State.readable (s : State) (a : Word) : Bool := s.kindAt a != .empty

/-- An octet can be written: it stands in no ROM and in no empty region (R66). -/
def State.writable (s : State) (a : Word) : Bool := s.kindAt a == .ram || s.kindAt a == .device

/-- A word can be read: the policy lets it be accessed there (R57) and both octets can be read. -/
def State.wordReadable (s : State) (a : Word) : Bool := s.wordAt a && s.readable a && s.readable (a + 1#16)

/-- A word can be written: the policy lets it be accessed there (R57) and both octets can be written. -/
def State.wordWritable (s : State) (a : Word) : Bool := s.wordAt a && s.writable a && s.writable (a + 1#16)

/-- An octet is plain memory, RAM or ROM, and no device: what it reads as is what stands in it (R62). -/
def State.plain (s : State) (a : Word) : Bool := s.kindAt a == .ram || s.kindAt a == .rom

/-- The word that stands in plain memory at an address (R53). -/
def State.word (s : State) (a : Word) : Word := joinOctets s.cfg.byteOrder (s.octet a) (s.octet (a + 1#16))

/-- Both octets of a word are plain memory and the word can be accessed there. -/
def State.wordPlain (s : State) (a : Word) : Bool := s.wordAt a && s.plain a && s.plain (a + 1#16)

/-- The octet is RAM (R62). -/
def State.isRam (s : State) (a : Word) : Bool := s.kindAt a == .ram

/-- Both octets of a word are RAM and the word can be accessed there. -/
def State.wordRam (s : State) (a : Word) : Bool := s.wordAt a && s.isRam a && s.isRam (a + 1#16)

/-! ### What stays as it was -/

/-- Every numbered register outside a list reads as before. -/
def SameRegs (s t : State) (but : List Reg) : Prop := ∀ r : Reg, r ∉ but → t.reg r = s.reg r

/-- Every octet of RAM outside a list of addresses reads as before. -/
def SameMem (s t : State) (but : List Word) : Prop := ∀ a : Word, a ∉ but → t.octet a = s.octet a

/-- Y, IA and sleep are as before. -/
def SameSpecial (s t : State) : Prop := t.y = s.y ∧ t.ia = s.ia ∧ t.asleep = s.asleep

/-- The listed inputs, the count of steps and the parameters are as before. -/
def SameWorld (s t : State) : Prop :=
  t.inputs = s.inputs ∧ t.ioInputs = s.ioInputs ∧ t.boundary = s.boundary ∧ t.cfg = s.cfg

/-- Nothing outside the numbered registers, PC, FLAGS and RAM has changed, and nothing has been put out. -/
def SameOther (s t : State) : Prop := SameSpecial s t ∧ t.outputs = s.outputs ∧ SameWorld s t

/-! ### What has changed -/

/-- A register has been written and no other one has: it reads as the value, R0 as 0 (R21). -/
def RegBecomes (s t : State) (r : Reg) (v : Word) : Prop :=
  t.reg r = (if r = .r0 then 0#16 else v) ∧ SameRegs s t [r]

/-- One numbered register has been written, and nothing else has changed. -/
def OnlyReg (s t : State) (r : Reg) (v : Word) : Prop :=
  RegBecomes s t r v ∧ t.pc = s.pc ∧ t.flags = s.flags ∧ SameMem s t [] ∧ SameOther s t

/-- The octets that a write of a word at an address puts, in the byte order of the parameters (R51, R55). -/
def wordPuts (s : State) (a v : Word) : List (Word × Byte) :=
  [(a, (splitWord s.cfg.byteOrder v).1), (a + 1#16, (splitWord s.cfg.byteOrder v).2)]

/-- A list of octets has been put, at addresses that differ: each in RAM stands there now, each for a device has been put
out to it in the order of the list (R54, R62), and every octet of RAM at another address reads as before. -/
def Stored (s t : State) (puts : List (Word × Byte)) : Prop :=
  (∀ p ∈ puts, t.octet p.1 = if s.isRam p.1 then p.2 else s.octet p.1) ∧
  SameMem s t (puts.map Prod.fst) ∧
  t.outputs = s.outputs ++ (puts.filter (fun p => s.kindAt p.1 == .device)).map (fun p => Output.mem p.1 p.2)

/-- The two words that an interrupt entry pushes can be written. -/
def State.entryWritable (s : State) : Bool :=
  s.wordWritable (s.reg .r15 - 2#16) && s.wordWritable (s.reg .r15 - 4#16)

/-- An interrupt with message `m` has been entered from `s` (R250). -/
def Entered (s t : State) (m : Word) : Prop :=
  t.reg .r15 = s.reg .r15 - 4#16 ∧ t.reg .r1 = m ∧ SameRegs s t [.r1, .r15] ∧ t.pc = s.ia ∧
  t.flags = { s.flags with interrupt := true } ∧
  Stored s t (wordPuts s (s.reg .r15 - 2#16) s.pc ++ wordPuts s (s.reg .r15 - 4#16) (s.reg .r1)) ∧
  SameSpecial s t ∧ SameWorld s t

/-! ### What stops an access -/

/-- What refuses a read of a word: an odd address under MISALIGNED_POLICY = refuse, else the first of its octets that stands
in an empty region (R57, R66). -/
def ReadStops (s : State) (a : Word) (r : Refusal) : Prop :=
  (s.wordAt a = false ∧ r = .misaligned a) ∨
  (s.wordAt a = true ∧ s.kindAt a = .empty ∧ r = .emptyRegion a) ∨
  (s.wordAt a = true ∧ s.kindAt a ≠ .empty ∧ s.kindAt (a + 1#16) = .empty ∧ r = .emptyRegion (a + 1#16))

/-- What refuses a write of an octet: a ROM or an empty region (R66). -/
def OctetStops (s : State) (a : Word) (r : Refusal) : Prop :=
  (s.kindAt a = .rom ∧ r = .romWrite a) ∨ (s.kindAt a = .empty ∧ r = .emptyRegion a)

/-- What refuses a write of a word: an odd address under MISALIGNED_POLICY = refuse, else the first of its octets that
cannot be written (R57, R66). -/
def WriteStops (s : State) (a : Word) (r : Refusal) : Prop :=
  (s.wordAt a = false ∧ r = .misaligned a) ∨ (s.wordAt a = true ∧ OctetStops s a r) ∨
  (s.wordAt a = true ∧ s.writable a = true ∧ OctetStops s (a + 1#16) r)

/-- What refuses an interrupt entry: its first push, else its second (R250). -/
def EntryStops (s : State) (r : Refusal) : Prop :=
  WriteStops s (s.reg .r15 - 2#16) r ∨
  (s.wordWritable (s.reg .r15 - 2#16) = true ∧ WriteStops s (s.reg .r15 - 4#16) r)

/-! ### Conditionals and the skip chain -/

/-- A conditional instruction with a test: where the test holds, the next instruction runs; where it fails, the skip chain
does (R160). -/
def RunsNextIf (test : Prop) (i : Instr) (s : State) : Prop :=
  (test → exec i s = .next s) ∧ (¬ test → exec i s = skipChain s)

/-- From `pc` on, plain memory holds the conditionals of a list; `q` is the address after them (R161). -/
def SkipsOver (s : State) : List Instr → Word → Word → Prop
  | [], pc, q => q = pc
  | c :: cs, pc, q =>
    s.wordPlain pc = true ∧ decodeFirst s.cfg (s.word pc) = .ok c ∧ isConditional c = true ∧
    SkipsOver s cs (pc + BitVec.ofNat 16 (2 * c.words)) q

/-- From `pc` on, plain memory holds the conditionals of a list and then `last`, which is an instruction and not
conditional; `e` is the address after them (R161). -/
def SkipsTo (s : State) (cs : List Instr) (last : Instr) (pc e : Word) : Prop :=
  ∃ q, SkipsOver s cs pc q ∧ s.wordPlain q = true ∧ decodeFirst s.cfg (s.word q) = .ok last ∧
    isConditional last = false ∧ isIllegal last = false ∧ e = q + BitVec.ofNat 16 (2 * last.words)

/-! ### Which instructions write what -/

/-- ADD, ADDC, SUB, SUBC, the writers of OF (R30, R31). -/
def isAddSub : Instr → Bool
  | .addR _ _ => true
  | .addL _ _ => true
  | .addcR _ _ => true
  | .subR _ _ => true
  | .subL _ _ => true
  | .subcR _ _ => true
  | .subcL _ _ => true
  | _ => false

/-- SLL, SRL, SRA, which also write CF (R30, R32). -/
def isShift : Instr → Bool
  | .sllR _ _ => true
  | .sllL _ _ => true
  | .srlR _ _ => true
  | .srlL _ _ => true
  | .sraR _ _ => true
  | .sraL _ _ => true
  | _ => false

/-- DIV (R152). -/
def isDiv : Instr → Bool
  | .divR _ _ => true
  | .divL _ _ => true
  | _ => false

/-- INT (R221). -/
def isInt : Instr → Bool
  | .intR _ => true
  | .intL _ => true
  | _ => false

/-- MUL, DIV, SETY, the writers of Y (R37). -/
def writesY : Instr → Bool
  | .mulR _ _ => true
  | .mulL _ _ => true
  | .divR _ _ => true
  | .divL _ _ => true
  | .setyR _ => true
  | .setyL _ => true
  | _ => false

/-- SETIA, the writer of IA (R38). -/
def writesIa : Instr → Bool
  | .setiaR _ => true
  | .setiaL _ => true
  | _ => false

/-- STORE, STORE.B, PUSH, CALL, and the two that can enter an interrupt, INT and DIV: the writers of RAM (R61, R203). -/
def writesRam : Instr → Bool
  | .storeL _ _ _ => true
  | .storeR _ _ _ => true
  | .storebL _ _ _ => true
  | .storebR _ _ _ => true
  | .push _ => true
  | .callAbs _ _ => true
  | .callRel _ => true
  | .intR _ => true
  | .intL _ => true
  | .divR _ _ => true
  | .divL _ _ => true
  | _ => false

/-- INP (R231). -/
def isInp : Instr → Bool
  | .inpR _ _ => true
  | .inpL _ _ => true
  | _ => false

/-- OUT (R232). -/
def isOut : Instr → Bool
  | .outR _ _ => true
  | .outL _ _ => true
  | _ => false

/-! ### Runs -/

/-- `n` steps. -/
def run : Nat → State → Result State
  | 0, s => .next s
  | n + 1, s => andThen (step s) (run n)

/-! ### The end of a run -/

/-- Nothing can wake the CPU: it sleeps, wakes only for an interrupt it takes, and can accept none (R206, R287). -/
def State.sleepsForGood (s : State) : Bool :=
  s.asleep && s.cfg.sleepWake == .onlyWhenTaken && !canAccept s

/-- The word at PC is `JMP -2`, the jump to itself (R192, R287). DESIGN CHOICE (log 13): it counts only where both octets
are RAM or ROM and PC may be fetched at. In a device region, whose answers may differ from fetch to fetch, in an empty
one, and at an odd PC under MISALIGNED_POLICY = refuse no run ends; whether an interrupt could be accepted is not asked. -/
def State.jumpsToSelf (s : State) : Bool := !s.asleep && s.wordPlain s.pc && s.word s.pc == 0x13FE#16

/-- Whether a run is at its end in a state, by a `HALT_CONVENTION` that looks at the state (R287). -/
def State.atEnd (s : State) : Bool :=
  match s.cfg.halt with
  | .sleepUnwakeable => s.sleepsForGood
  | .jumpToSelf => s.jumpsToSelf
  | .writeTo _ => false
  | .outTo _ => false

/-- Whether the step from `s` to `t` ends the run, by a `HALT_CONVENTION` that looks at what is written: it writes the
agreed address, RAM or a device, or puts a value out to the agreed IO address (R287, log 13). -/
def stepEnds (s t : State) : Bool :=
  match s.cfg.halt with
  | .sleepUnwakeable => false
  | .jumpToSelf => false
  | .writeTo a => (stepOctets s).contains a
  | .outTo port => (t.outputs.drop s.outputs.length).any fun o =>
    match o with
    | .io p _ => p == port
    | .mem _ _ => false

/-- Whether the run from a state has ended within `n` steps, by `HALT_CONVENTION` (R287). -/
def runEnded : Nat → State → Bool
  | 0, s => s.atEnd
  | n + 1, s => s.atEnd ||
    match step s with
    | .next t => stepEnds s t || runEnded n t
    | .fault _ => false
    | .refused _ => false

/-- What holds of every state a run passes through: RAM is in its canonical form. -/
def State.Inv (s : State) : Prop := s.mem.wf = true

end Sys2Proof.Machine
end

