-- ==== Sys2Proof/Certificates/Slice0/Obligations.lean ====
section
/-! DEFINITION. The statements for the provers. -/

open Sys2Proof Sys2Proof.Machine

/-- State.reset and every state that a reset event leaves have R0 to R15, FLAGS, Y, IA and PC at 0, the IACQ line low, the
CPU awake and no interrupt acceptable; a reset event leaves RAM, the outputs, the listed inputs and the parameters
alone. That a reset leaves RAM alone and the CPU awake is the decision D35 of the spec. Derived: 10_state.md section
9; 70_reset_and_hazards.md section 1; 92_eei_decisions.md D35. -/
def Obligations.ResetState : Prop :=
  (∀ r : Reg, State.reset.reg r = 0#16) ∧ flagsWord State.reset.flags = 0#16 ∧ State.reset.y = 0#16 ∧
  State.reset.ia = 0#16 ∧ State.reset.pc = 0#16 ∧ State.reset.iacq = false ∧ State.reset.asleep = false ∧
  canAccept State.reset = false ∧
  ∀ s : State, (∀ r : Reg, (applyReset s).reg r = 0#16) ∧ flagsWord (applyReset s).flags = 0#16 ∧
    (applyReset s).y = 0#16 ∧ (applyReset s).ia = 0#16 ∧ (applyReset s).pc = 0#16 ∧ (applyReset s).iacq = false ∧
    (applyReset s).asleep = false ∧ canAccept (applyReset s) = false ∧ SameMem s (applyReset s) [] ∧
    (applyReset s).outputs = s.outputs ∧ SameWorld s (applyReset s)

/-- A reset that abandons the step a state is about to make leaves R0 to R15, FLAGS, Y, IA and PC at 0, the IACQ line low,
the CPU awake and no interrupt acceptable. Every octet of RAM outside those that the step could have written is as
before: none for a CPU that sleeps on, the four of the two pushes for an interrupt entry, for an instruction that
stores those of its effective address, of its push, or of the entry that INT makes and DIV by 0 makes where it can be
accepted. What was put out before stands at the front of the outputs, and the parameters are as before. Which octets a
step writes is read off its instruction; that all of them may be lost, and that a part of the outputs may have gone
out, is the choice of the model (log 22). Derived: 70_reset_and_hazards.md section 1; 93_implementation_defined.md
section 3; 92_eei_decisions.md D35. -/
def Obligations.ResetWithinStep : Prop :=
  ∀ s : State, (∀ r : Reg, (resetWithin s).reg r = 0#16) ∧ flagsWord (resetWithin s).flags = 0#16 ∧
    (resetWithin s).y = 0#16 ∧ (resetWithin s).ia = 0#16 ∧ (resetWithin s).pc = 0#16 ∧ (resetWithin s).iacq = false ∧
    (resetWithin s).asleep = false ∧ canAccept (resetWithin s) = false ∧ (resetWithin s).cfg = s.cfg ∧
    SameMem s (resetWithin s) (stepOctets s) ∧ (∃ out : List Output, (resetWithin s).outputs = s.outputs ++ out) ∧
    (canAccept s && s.pins.intLow → stepOctets s = [s.reg .r15 - 2#16, s.reg .r15 - 2#16 + 1#16,
      s.reg .r15 - 4#16, s.reg .r15 - 4#16 + 1#16]) ∧
    ((canAccept s && s.pins.intLow) = false → s.asleep = true → stepOctets s = []) ∧
    ∀ (i : Instr) (t : State), (canAccept s && s.pins.intLow) = false → s.asleep = false → fetch s.tick = .next (i, t) →
      (writesRam i = false → stepOctets s = []) ∧
      (∀ (ra rb rc : Reg) (l : Lit) (a : Word), (i = .storeR ra rb rc ∧ a = s.reg ra + s.reg rb) ∨
        (i = .storeL ra l rc ∧ a = s.reg ra + litValue l) → stepOctets s = [a, a + 1#16]) ∧
      (∀ (ra rb rc : Reg) (l : Lit) (a : Word), (i = .storebR ra rb rc ∧ a = s.reg ra + s.reg rb) ∨
        (i = .storebL ra l rc ∧ a = s.reg ra + litValue l) → stepOctets s = [a]) ∧
      (∀ (rc : Reg) (l : Lit) (d : BitVec 9), i = .push rc ∨ i = .callAbs l rc ∨ i = .callRel d →
        stepOctets s = [s.reg .r15 - 2#16, s.reg .r15 - 2#16 + 1#16]) ∧
      (∀ (rb rc : Reg) (l : Lit) (b : Word), isInt i = true ∨ (i = .divR rb rc ∧ b = s.reg rb) ∨ (i = .divL l rc ∧ b = litValue l) →
        (canAccept s = true → isInt i = true ∨ b = 0#16 → stepOctets s = [s.reg .r15 - 2#16, s.reg .r15 - 2#16 + 1#16,
          s.reg .r15 - 4#16, s.reg .r15 - 4#16 + 1#16]) ∧
        (canAccept s = false ∨ (isInt i = false ∧ b ≠ 0#16) → stepOctets s = []))

/-- State.reset satisfies the invariant State.Inv: the listed octets of RAM stand at strictly rising addresses inside the
address space. That nothing is listed at reset is the choice of the model (log 14). Derived: 20_memory.md section 1;
10_state.md section 9. -/
def Obligations.ResetMemoryCanonical : Prop :=
  State.reset.Inv

/-- For every state, reached by a run or not, whose RAM is in canonical form (addresses strictly rising, all inside 0x0000
to 0xFFFF), a step that answers a next state leaves RAM in canonical form: through every instruction, interrupt entry
and wake-up. Derived: 20_memory.md section 1; 60_exceptions.md section 11. -/
def Obligations.StepKeepsInvariant : Prop :=
  ∀ s t : State, s.Inv → step s = .next t → t.Inv

/-- Whenever a step answers a next state, the parameters of R6 are as before, exactly the sample of this boundary has been
used up, the count of steps is one higher, the answers to IO reads are a tail of what they were, and what has been put
out before still stands at the front of the outputs. These fields are the choice of the model: the parameters as a
field (log 1), the lists of answers and outputs (log 11), one sample a step (log 15), the count of steps (log 16).
Derived: 00_scope.md section 4; 20_memory.md section 7; 60_exceptions.md section 11. -/
def Obligations.StepKeepsParameters : Prop :=
  ∀ s t : State, step s = .next t →
    t.cfg = s.cfg ∧ t.inputs = s.inputs.tail ∧ t.boundary = s.boundary + 1 ∧
    (t.ioInputs = s.ioInputs ∨ t.ioInputs = s.ioInputs.tail) ∧ ∃ out : List Output, t.outputs = s.outputs ++ out

/-- For every state, register and value: R0 reads 0; after a write of a register other than R0 that register reads as the
value and every other one as before; a write of R0 changes nothing (decision D7 of the spec). BP is R14 and SP is R15.
Derived: 10_state.md section 2; 92_eei_decisions.md D7. -/
def Obligations.RegisterFile : Prop :=
  ∀ (s : State) (r : Reg) (v : Word), s.reg .r0 = 0#16 ∧ (r ≠ .r0 → (s.setReg r v).reg r = v) ∧
    SameRegs s (s.setReg r v) [r] ∧ s.setReg .r0 v = s ∧ s.sp = s.reg .r15 ∧ Reg.bp = .r14

/-- For every address that is RAM, MemRead(addr, 1) returns the octet that stands there, and MemWrite(addr, 1, v) answers
a state in which that octet is v, every other octet, every register and everything else are as before. Stated: R52,
R54. -/
def Obligations.OctetAccess : Prop :=
  ∀ (s : State) (k : Nat) (a : Word) (v : Byte), s.isRam a = true →
    readOctet s k a = .next (s.octet a) ∧
    ∃ t, writeOctet s a v = .next t ∧ t.octet a = v ∧ SameMem s t [a] ∧ SameRegs s t [] ∧ t.pc = s.pc ∧
      t.flags = s.flags ∧ SameOther s t

/-- Where both octets of a word are RAM (the second at (addr + 1) mod 2^16) and the alignment policy allows the access,
MemWrite(addr, 2, v) answers a state that differs in those two octets of RAM only, with every register, PC, FLAGS and
everything else as before, the low octet lower under BYTE_ORDER = little and the high octet lower under big, and
MemRead(addr, 2) from it returns v. Byte order, wrap and alignment are decisions D3, D5 and D4 of the spec. Derived:
20_memory.md section 1; 20_memory.md section 3; 92_eei_decisions.md D3, D4, D5. -/
def Obligations.WordWriteThenRead : Prop :=
  ∀ (s : State) (k : Nat) (a v : Word), s.wordRam a = true →
    ∃ t, writeWord s a v = .next t ∧ readWord t k a = .next v ∧ SameMem s t [a, a + 1#16] ∧
      SameRegs s t [] ∧ t.pc = s.pc ∧ t.flags = s.flags ∧ SameOther s t ∧
      (s.cfg.byteOrder = .little → t.octet a = v.extractLsb' 0 8 ∧ t.octet (a + 1#16) = v.extractLsb' 8 8) ∧
      (s.cfg.byteOrder = .big → t.octet a = v.extractLsb' 8 8 ∧ t.octet (a + 1#16) = v.extractLsb' 0 8)

/-- Where the word at the effective address (REG1 + REG2, or REG1 + literal, modulo 2^16) can be read, LOAD answers a next
state in which REG3 holds the word read (R0 stays 0), and every other register, PC, FLAGS, all of RAM and everything
else are as before. In RAM and ROM the word read is the one that stands there; a device region answers freely.
Derived: 40_ram.md sections 1 and 2; 20_memory.md sections 1 and 3. -/
def Obligations.LoadCompletes : Prop :=
  ∀ (s : State) (ra rb rc : Reg) (l : Lit),
    (s.wordReadable (s.reg ra + s.reg rb) = true → ∃ t v, exec (.loadR ra rb rc) s = .next t ∧ OnlyReg s t rc v ∧
      (s.wordPlain (s.reg ra + s.reg rb) = true → v = s.word (s.reg ra + s.reg rb))) ∧
    (s.wordReadable (s.reg ra + litValue l) = true → ∃ t v, exec (.loadL ra l rc) s = .next t ∧ OnlyReg s t rc v ∧
      (s.wordPlain (s.reg ra + litValue l) = true → v = s.word (s.reg ra + litValue l)))

/-- Where the octet at the effective address can be read, LOAD.B answers a next state in which bits 7 to 0 of REG3 are the
octet and bits 15 to 8 are 0 under LOADB_HIGH = zero, as before under preserve, and free under any (decision D6 of the
spec); R0 stays 0, and nothing else changes. Derived: 40_ram.md section 2; 92_eei_decisions.md D6. -/
def Obligations.LoadByteCompletes : Prop :=
  ∀ (s : State) (ra rb rc : Reg) (l : Lit) (i : Instr) (a : Word),
    (i = .loadbR ra rb rc ∧ a = s.reg ra + s.reg rb) ∨ (i = .loadbL ra l rc ∧ a = s.reg ra + litValue l) →
    s.readable a = true →
    ∃ t v, exec i s = .next t ∧ OnlyReg s t rc v ∧
      (s.plain a = true → v.extractLsb' 0 8 = s.octet a) ∧
      (s.cfg.loadbHigh = .zero → v.extractLsb' 8 8 = 0#8) ∧
      (s.cfg.loadbHigh = .preserve → v.extractLsb' 8 8 = (s.reg rc).extractLsb' 8 8)

/-- Where the word at the effective address can be written, STORE answers a next state in which its two octets have been
put (into RAM, or out to a device that stands there), and every other octet of RAM, every register, PC, FLAGS and
everything else are as before. Derived: 40_ram.md sections 1 and 2; 20_memory.md sections 1 and 3. -/
def Obligations.StoreCompletes : Prop :=
  ∀ (s : State) (ra rb rc : Reg) (l : Lit) (i : Instr) (a : Word),
    (i = .storeR ra rb rc ∧ a = s.reg ra + s.reg rb) ∨ (i = .storeL ra l rc ∧ a = s.reg ra + litValue l) →
    s.wordWritable a = true →
    ∃ t, exec i s = .next t ∧ Stored s t (wordPuts s a (s.reg rc)) ∧ SameRegs s t [] ∧ t.pc = s.pc ∧
      t.flags = s.flags ∧ SameSpecial s t ∧ SameWorld s t

/-- Where the octet at the effective address can be written, STORE.B answers a next state in which bits 7 to 0 of REG3
have been put there, and every other octet of RAM, every register, PC, FLAGS and everything else are as before.
Derived: 40_ram.md section 2; 20_memory.md section 3. -/
def Obligations.StoreByteCompletes : Prop :=
  ∀ (s : State) (ra rb rc : Reg) (l : Lit) (i : Instr) (a : Word),
    (i = .storebR ra rb rc ∧ a = s.reg ra + s.reg rb) ∨ (i = .storebL ra l rc ∧ a = s.reg ra + litValue l) →
    s.writable a = true →
    ∃ t, exec i s = .next t ∧ Stored s t [(a, (s.reg rc).extractLsb' 0 8)] ∧ SameRegs s t [] ∧ t.pc = s.pc ∧
      t.flags = s.flags ∧ SameSpecial s t ∧ SameWorld s t

/-- An access is refused by name and address: a word at an odd address under MISALIGNED_POLICY = refuse as misaligned, a
read or write of an octet in an empty region as such, a write to ROM as a ROM write. Of a word the octet at its
address is looked at first, the next one only where that one may be accessed, and the address named is that of the
octet in the way: this order of checks is the choice of the model (log 12). So end LOAD, POP and RET (the word read),
RFI (the first or the second pop), STORE, PUSH and CALL (the word written), LOAD.B and STORE.B (the octet), the
interrupt entry of INT, of DIV by 0 and of a hardware request, asleep or awake (the first or the second push), the
fetch of a first word and of a literal word, and a skip chain, after any conditionals in plain memory. Refusing is the
decisions D4 and D34 of the spec. Derived: 20_memory.md section 2; 20_memory.md section 5; 45_stack.md;
60_exceptions.md section 4; 42_branch.md section 1; 92_eei_decisions.md D4, D34. -/
def Obligations.StoppedAccesses : Prop :=
  ∀ (s : State) (ra rb rc : Reg) (l : Lit) (d : BitVec 9) (i : Instr) (a : Word) (r : Refusal),
    ((i = .loadR ra rb rc ∧ a = s.reg ra + s.reg rb) ∨ (i = .loadL ra l rc ∧ a = s.reg ra + litValue l) ∨
        ((i = .pop rc ∨ i = .ret ∨ i = .rfi) ∧ a = s.reg .r15) →
      ReadStops s a r → exec i s = .refused r) ∧
    (s.wordReadable (s.reg .r15) = true → ReadStops s (s.reg .r15 + 2#16) r → exec .rfi s = .refused r) ∧
    ((i = .storeR ra rb rc ∧ a = s.reg ra + s.reg rb) ∨ (i = .storeL ra l rc ∧ a = s.reg ra + litValue l) ∨
        ((i = .push rc ∨ i = .callAbs l rc ∨ i = .callRel d) ∧ a = s.reg .r15 - 2#16) →
      WriteStops s a r → exec i s = .refused r) ∧
    ((i = .loadbR ra rb rc ∧ a = s.reg ra + s.reg rb) ∨ (i = .loadbL ra l rc ∧ a = s.reg ra + litValue l) →
      s.kindAt a = .empty → exec i s = .refused (.emptyRegion a)) ∧
    ((i = .storebR ra rb rc ∧ a = s.reg ra + s.reg rb) ∨ (i = .storebL ra l rc ∧ a = s.reg ra + litValue l) →
      OctetStops s a r → exec i s = .refused r) ∧
    (canAccept s = true → EntryStops s r →
      (isInt i = true ∨ (i = .divR rb rc ∧ s.reg rb = 0#16) ∨ (i = .divL l rc ∧ litValue l = 0#16) →
        exec i s = .refused r) ∧
      (s.pins.intLow = true → step s = .refused r)) ∧
    (s.asleep = false → (canAccept s && s.pins.intLow) = false →
      (ReadStops s s.pc r → step s = .refused r) ∧
      (s.wordPlain s.pc = true → decodeFirst s.cfg (s.word s.pc) = .ok i → i.words = 2 →
        ReadStops s (s.pc + 2#16) r → step s = .refused r)) ∧
    ∀ cs : List Instr, SkipsOver s cs s.pc a → ReadStops s a r → skipChain s = .refused r

/-- ADD (both forms) and ADDC answer a next state in which REG3 is the 16-bit sum of REG3, the operand and, for ADDC, CF;
CF is 1 exactly when the exact sum reaches 2^16; OF is bit 15 of (a xor r) and (b xor r); DE and IF, every other
register, PC, RAM and everything else are as before. That both flags are written on every execution is decision D8 of
the spec. Derived: 41_alu.md sections 1 and 2; 10_state.md section 4; 92_eei_decisions.md D8. -/
def Obligations.AddCompletes : Prop :=
  ∀ (s : State) (rb rc : Reg) (l : Lit) (i : Instr) (b : Word) (c : Bool),
    (i = .addR rb rc ∧ b = s.reg rb ∧ c = false) ∨ (i = .addL l rc ∧ b = litValue l ∧ c = false) ∨
      (i = .addcR rb rc ∧ b = s.reg rb ∧ c = s.flags.carry) →
    ∃ t r, exec i s = .next t ∧ r = s.reg rc + b + (BitVec.ofBool c).setWidth 16 ∧ RegBecomes s t rc r ∧
      t.flags = { s.flags with
        carry := decide (2 ^ 16 ≤ (s.reg rc).toNat + b.toNat + c.toNat)
        overflow := ((s.reg rc ^^^ r) &&& (b ^^^ r)).msb } ∧
      t.pc = s.pc ∧ SameMem s t [] ∧ SameOther s t

/-- SUB and SUBC (both forms each) answer a next state in which REG3 is REG3 minus the operand and, for SUBC, minus CF,
modulo 2^16; CF is 1 exactly when the exact difference is negative; OF is bit 15 of (a xor b) and (a xor r); DE and
IF, every other register, PC, RAM and everything else are as before. The polarity of SUBC is decision D9 of the spec.
Derived: 41_alu.md sections 1 and 2; 10_state.md section 4; 92_eei_decisions.md D8, D9. -/
def Obligations.SubCompletes : Prop :=
  ∀ (s : State) (rb rc : Reg) (l : Lit) (i : Instr) (b : Word) (c : Bool),
    (i = .subR rb rc ∧ b = s.reg rb ∧ c = false) ∨ (i = .subL l rc ∧ b = litValue l ∧ c = false) ∨
      (i = .subcR rb rc ∧ b = s.reg rb ∧ c = s.flags.carry) ∨ (i = .subcL l rc ∧ b = litValue l ∧ c = s.flags.carry) →
    ∃ t r, exec i s = .next t ∧ r = s.reg rc - b - (BitVec.ofBool c).setWidth 16 ∧ RegBecomes s t rc r ∧
      t.flags = { s.flags with
        carry := decide ((s.reg rc).toNat < b.toNat + c.toNat)
        overflow := ((s.reg rc ^^^ b) &&& (s.reg rc ^^^ r)).msb } ∧
      t.pc = s.pc ∧ SameMem s t [] ∧ SameOther s t

/-- When ADD RL, SL and then ADDC RH, SH are executed, with RL and RH two different registers other than R0 and SH not RL,
the register pair RH:RL ends as the 32-bit sum of RH:RL and SH:SL modulo 2^32. Derived: 41_alu.md section 2;
92_eei_decisions.md D8. -/
def Obligations.AddPairIs32BitAdd : Prop :=
  ∀ (s t u : State) (sl rl sh rh : Reg), rl ≠ .r0 → rh ≠ .r0 → rl ≠ rh → sh ≠ rl →
    exec (.addR sl rl) s = .next t → exec (.addcR sh rh) t = .next u →
    (u.reg rh ++ u.reg rl : BitVec 32) = (s.reg rh ++ s.reg rl) + (s.reg sh ++ s.reg sl)

/-- When SUB RL, SL and then SUBC RH, SH are executed, with RL and RH two different registers other than R0 and SH not RL,
the register pair RH:RL ends as the 32-bit difference of RH:RL and SH:SL modulo 2^32. Derived: 41_alu.md section 2;
92_eei_decisions.md D8, D9. -/
def Obligations.SubPairIs32BitSub : Prop :=
  ∀ (s t u : State) (sl rl sh rh : Reg), rl ≠ .r0 → rh ≠ .r0 → rl ≠ rh → sh ≠ rl →
    exec (.subR sl rl) s = .next t → exec (.subcR sh rh) t = .next u →
    (u.reg rh ++ u.reg rl : BitVec 32) = (s.reg rh ++ s.reg rl) - (s.reg sh ++ s.reg sl)

/-- Each answers a next state in which REG3 is the complement, the two-complement (complement plus one), the bitwise and,
or, exclusive or; FLAGS, every other register, PC, RAM and everything else are as before. That no flag is written is
decision D10 of the spec. Derived: 41_alu.md sections 2 and 3; 92_eei_decisions.md D10. -/
def Obligations.LogicCompletes : Prop :=
  ∀ (s : State) (rb rc : Reg) (i : Instr) (v : Word),
    (i = .notR rc ∧ v = ~~~ s.reg rc) ∨ (i = .negR rc ∧ v = ~~~ s.reg rc + 1#16) ∨
      (i = .andR rb rc ∧ v = s.reg rc &&& s.reg rb) ∨ (i = .orR rb rc ∧ v = s.reg rc ||| s.reg rb) ∨
      (i = .xorR rb rc ∧ v = s.reg rc ^^^ s.reg rb) →
    ∃ t, exec i s = .next t ∧ OnlyReg s t rc v

/-- Each answers a next state in which REG3 is shifted by the whole 16-bit operand n; with n = 0 CF is as before, else CF
is the bit that leaves when the value shifted by n - 1 is shifted once more; OF, DE, IF, every other register, PC, RAM
and everything else are as before. The treatment of n = 0 and n of 16 or more is decision D11 of the spec. Derived:
41_alu.md section 4; 92_eei_decisions.md D11. -/
def Obligations.ShiftsComplete : Prop :=
  ∀ (s : State) (rb rc : Reg) (l : Lit) (n : Nat) (i : Instr) (v : Word) (out : Bool),
    ((i = .sllR rb rc ∧ n = (s.reg rb).toNat ∨ i = .sllL l rc ∧ n = (litValue l).toNat) ∧
        v = s.reg rc <<< n ∧ out = (s.reg rc <<< (n - 1)).msb) ∨
      ((i = .srlR rb rc ∧ n = (s.reg rb).toNat ∨ i = .srlL l rc ∧ n = (litValue l).toNat) ∧
        v = s.reg rc >>> n ∧ out = (s.reg rc >>> (n - 1)).getLsbD 0) ∨
      ((i = .sraR rb rc ∧ n = (s.reg rb).toNat ∨ i = .sraL l rc ∧ n = (litValue l).toNat) ∧
        v = (s.reg rc).sshiftRight n ∧ out = ((s.reg rc).sshiftRight (n - 1)).getLsbD 0) →
    ∃ t, exec i s = .next t ∧ RegBecomes s t rc v ∧
      t.flags = { s.flags with carry := if n = 0 then s.flags.carry else out } ∧
      t.pc = s.pc ∧ SameMem s t [] ∧ SameOther s t

/-- For SLL, SRL and SRA, for every value, every amount n and every carry: shifting by n + 1 gives the register and the
carry that shifting by n and then by 1 gives. This is the definition of a shift as n repetitions of a one-bit shift
that decision D11 of the spec takes. Derived: 41_alu.md section 4; 92_eei_decisions.md D11. -/
def Obligations.ShiftsIterate : Prop :=
  ∀ (a : Word) (n : Nat) (cf : Bool),
    sllValue a (n + 1) cf = sllValue (sllValue a n cf).1 1 (sllValue a n cf).2 ∧
    srlValue a (n + 1) cf = srlValue (srlValue a n cf).1 1 (srlValue a n cf).2 ∧
    sraValue a (n + 1) cf = sraValue (sraValue a n cf).1 1 (sraValue a n cf).2

/-- Each answers a next state in which bit j of REG3 is the bit that stood k places to its right (ROTL) or left (ROTR),
cyclically, with k the operand modulo 16; FLAGS and everything else are as before. That the carry takes no part is
decision D12 of the spec. Derived: 41_alu.md section 5; 92_eei_decisions.md D12. -/
def Obligations.RotatesComplete : Prop :=
  ∀ (s : State) (rb rc : Reg) (l : Lit) (b : Word) (i : Instr),
    (i = .rotlR rb rc ∧ b = s.reg rb ∨ i = .rotlL l rc ∧ b = litValue l →
      ∃ t v, exec i s = .next t ∧ OnlyReg s t rc v ∧
        ∀ j : Nat, j < 16 → v.getLsbD j = (s.reg rc).getLsbD ((j + 16 - b.toNat % 16) % 16)) ∧
    (i = .rotrR rb rc ∧ b = s.reg rb ∨ i = .rotrL l rc ∧ b = litValue l →
      ∃ t v, exec i s = .next t ∧ OnlyReg s t rc v ∧
        ∀ j : Nat, j < 16 → v.getLsbD j = (s.reg rc).getLsbD ((j + b.toNat % 16) % 16))

/-- MUL answers a next state in which Y is the high and REG3 the low half of the 32-bit product of REG3 and the operand,
both taken unsigned under MULDIV_SIGNED = false and signed under true; FLAGS, every other register, PC, IA, RAM and
everything else are as before. Signedness is decision D13 of the spec. Derived: 41_alu.md section 6;
92_eei_decisions.md D10, D13. -/
def Obligations.MulCompletes : Prop :=
  ∀ (s : State) (rb rc : Reg) (l : Lit) (i : Instr) (b : Word) (p : BitVec 32),
    (i = .mulR rb rc ∧ b = s.reg rb) ∨ (i = .mulL l rc ∧ b = litValue l) →
    p = (if s.cfg.muldivSigned then (s.reg rc).signExtend 32 * b.signExtend 32
         else (s.reg rc).setWidth 32 * b.setWidth 32) →
    ∃ t, exec i s = .next t ∧ t.y = p.extractLsb' 16 16 ∧ RegBecomes s t rc (p.extractLsb' 0 16) ∧
      t.pc = s.pc ∧ t.flags = s.flags ∧ t.ia = s.ia ∧ t.asleep = s.asleep ∧ SameMem s t [] ∧
      t.outputs = s.outputs ∧ SameWorld s t

/-- With a divisor b other than 0, DIV answers a next state in which Y is the high and REG3 the low half of a 32-bit q.
Unsigned (MULDIV_SIGNED = false): q * b <= Y:REG3 < (q + 1) * b. Signed: where -2^31 / -1 is not the case, the
dividend differs from q * b by less than the size of b, so that q is exact where b divides; the rounding is free (log
8). FLAGS, DE among them, every other register, PC, IA, RAM and everything else are as before. Derived: 41_alu.md
section 6; 92_eei_decisions.md D10, D13, D14. -/
def Obligations.DivCompletes : Prop :=
  ∀ (s : State) (rb rc : Reg) (l : Lit) (i : Instr) (b : Word) (n : BitVec 32),
    (i = .divR rb rc ∧ b = s.reg rb) ∨ (i = .divL l rc ∧ b = litValue l) → b ≠ 0#16 → n = s.y ++ s.reg rc →
    ∃ (t : State) (q : BitVec 32), exec i s = .next t ∧ t.y = q.extractLsb' 16 16 ∧
      RegBecomes s t rc (q.extractLsb' 0 16) ∧
      (s.cfg.muldivSigned = false → q.toNat * b.toNat ≤ n.toNat ∧ n.toNat < (q.toNat + 1) * b.toNat) ∧
      (s.cfg.muldivSigned = true → ¬ (n.toInt = -2147483648 ∧ b.toInt = -1) →
        (n.toInt - q.toInt * b.toInt).natAbs < b.toInt.natAbs) ∧
      t.pc = s.pc ∧ t.flags = s.flags ∧ t.ia = s.ia ∧ t.asleep = s.asleep ∧ SameMem s t [] ∧
      t.outputs = s.outputs ∧ SameWorld s t

/-- With divisor 0 DIV (both forms) answers: where no interrupt can be accepted (IA = 0, or IF = 1), the same state with
DE set and nothing else changed; else, with room on the stack, the state after an interrupt entry with message 0 from
the state with DE set, the pushed PC being the address after the DIV. Delivery is decision D15 of the spec. Derived:
41_alu.md section 6; 60_exceptions.md sections 2 and 4; 92_eei_decisions.md D14, D15. -/
def Obligations.DivByZeroRaises : Prop :=
  ∀ (s : State) (rb rc : Reg) (l : Lit) (i : Instr),
    (i = .divR rb rc ∧ s.reg rb = 0#16) ∨ (i = .divL l rc ∧ litValue l = 0#16) →
    (s.ia = 0#16 ∨ s.flags.interrupt = true →
      exec i s = .next { s with flags := { s.flags with divError := true } }) ∧
    (s.ia ≠ 0#16 → s.flags.interrupt = false → s.entryWritable = true →
      ∃ t, exec i s = .next t ∧ Entered { s with flags := { s.flags with divError := true } } t 0#16)

/-- The words 0x5B, 0x5D, 0x5F and 0x60 with their fields decode to BEQ and BNEQ in the register and the literal form. BEQ
answers the unchanged state (PC already at the next instruction) when all 16 bits of REG3 and the operand agree, else
it does what SkipChain does; BNEQ the reverse. 0x5C and 0x5E are unassigned where EXTRA_OPCODES is empty. Stated:
R163, R164. -/
def Obligations.EqualityConditionals : Prop :=
  (∀ (c : Config) (rb rc : Reg) (l : Lit) (v : Word), l.wf = true →
    decodeFirst c (word2P 0x5B#8 rb.code rc.code) = .ok (.beqR rb rc) ∧
    decode c (word2P 0x5D#8 l.field rc.code) (l.words.headD v) = .ok (.beqL l rc) ∧
    decodeFirst c (word2P 0x5F#8 rb.code rc.code) = .ok (.bneqR rb rc) ∧
    decode c (word2P 0x60#8 l.field rc.code) (l.words.headD v) = .ok (.bneqL l rc) ∧
    (c.extra = [] →
      decodeFirst c (word2P 0x5C#8 rb.code rc.code) = .ok (.unassigned (word2P 0x5C#8 rb.code rc.code)) ∧
      decodeFirst c (word2P 0x5E#8 rb.code rc.code) = .ok (.unassigned (word2P 0x5E#8 rb.code rc.code)))) ∧
  ∀ (s : State) (rb rc : Reg) (l : Lit),
    RunsNextIf (s.reg rc = s.reg rb) (.beqR rb rc) s ∧
    RunsNextIf (s.reg rc = litValue l) (.beqL l rc) s ∧
    RunsNextIf (s.reg rc ≠ s.reg rb) (.bneqR rb rc) s ∧
    RunsNextIf (s.reg rc ≠ litValue l) (.bneqL l rc) s

/-- The words 0x61 to 0x68 with their fields decode to BG, BGE, BUG and BUGE in the register and the literal form. Each
answers the unchanged state when REG3 is greater than (or, for BGE and BUGE, equal to) the operand, the two compared
as signed numbers by BG and BGE and as unsigned numbers by BUG and BUGE, else it does what SkipChain does. Stated:
R165, R166, R167, R168. -/
def Obligations.OrderConditionals : Prop :=
  (∀ (c : Config) (rb rc : Reg) (l : Lit) (v : Word), l.wf = true →
    decodeFirst c (word2P 0x61#8 rb.code rc.code) = .ok (.bgR rb rc) ∧
    decode c (word2P 0x62#8 l.field rc.code) (l.words.headD v) = .ok (.bgL l rc) ∧
    decodeFirst c (word2P 0x63#8 rb.code rc.code) = .ok (.bgeR rb rc) ∧
    decode c (word2P 0x64#8 l.field rc.code) (l.words.headD v) = .ok (.bgeL l rc) ∧
    decodeFirst c (word2P 0x65#8 rb.code rc.code) = .ok (.bugR rb rc) ∧
    decode c (word2P 0x66#8 l.field rc.code) (l.words.headD v) = .ok (.bugL l rc) ∧
    decodeFirst c (word2P 0x67#8 rb.code rc.code) = .ok (.bugeR rb rc) ∧
    decode c (word2P 0x68#8 l.field rc.code) (l.words.headD v) = .ok (.bugeL l rc)) ∧
  ∀ (s : State) (rb rc : Reg) (l : Lit),
    RunsNextIf ((s.reg rb).slt (s.reg rc) = true) (.bgR rb rc) s ∧
    RunsNextIf ((litValue l).slt (s.reg rc) = true) (.bgL l rc) s ∧
    RunsNextIf ((s.reg rb).sle (s.reg rc) = true) (.bgeR rb rc) s ∧
    RunsNextIf ((litValue l).sle (s.reg rc) = true) (.bgeL l rc) s ∧
    RunsNextIf ((s.reg rb).ult (s.reg rc) = true) (.bugR rb rc) s ∧
    RunsNextIf ((litValue l).ult (s.reg rc) = true) (.bugL l rc) s ∧
    RunsNextIf ((s.reg rb).ule (s.reg rc) = true) (.bugeR rb rc) s ∧
    RunsNextIf ((litValue l).ule (s.reg rc) = true) (.bugeL l rc) s

/-- Under CLASH_POLICY = later_listed the words 0x52 and 0x53 decode to BBITS and BCLEAR with two register fields. BBITS
answers the unchanged state when REG3 and REG2 have a common 1 bit, else it does what SkipChain does; BCLEAR the
reverse. Which policy holds is decision D1 of the spec. Derived: 42_branch.md section 3; 30_encoding.md section 5;
92_eei_decisions.md D1. -/
def Obligations.BitConditionals : Prop :=
  (∀ (c : Config) (rb rc : Reg), c.clash = .laterListed →
    decodeFirst c (word2P 0x52#8 rb.code rc.code) = .ok (.bbits rb rc) ∧
    decodeFirst c (word2P 0x53#8 rb.code rc.code) = .ok (.bclear rb rc)) ∧
  ∀ (s : State) (rb rc : Reg),
    ((∃ j : Nat, (s.reg rc).getLsbD j = true ∧ (s.reg rb).getLsbD j = true) →
      exec (.bbits rb rc) s = .next s ∧ exec (.bclear rb rc) s = skipChain s) ∧
    ((∀ j : Nat, (s.reg rc).getLsbD j = true → (s.reg rb).getLsbD j = false) →
      exec (.bbits rb rc) s = skipChain s ∧ exec (.bclear rb rc) s = .next s)

/-- The words 0x0008 and 0x0009 decode to BOVF and BOCF. BOVF answers the unchanged state when OF is 1, BOCF when CF is 1,
else each does what SkipChain does. Stated: R171, R172. -/
def Obligations.FlagConditionals : Prop :=
  (∀ c : Config, decodeFirst c 0x0008#16 = .ok .bovf ∧ decodeFirst c 0x0009#16 = .ok .bocf) ∧
  ∀ s : State,
    RunsNextIf (s.flags.overflow = true) .bovf s ∧
    RunsNextIf (s.flags.carry = true) .bocf s

/-- Where plain memory from PC on holds any number of conditional instructions and then an instruction that is not
conditional, each as long as its literal field says, SkipChain answers the state with PC moved past that last
instruction and nothing else changed, however long the chain is, also where it wraps round the address space. Derived:
42_branch.md sections 1 and 4; 92_eei_decisions.md D17. -/
def Obligations.SkipChainEnds : Prop :=
  ∀ (s : State) (l : List Instr) (last : Instr) (e : Word), SkipsTo s l last s.pc e →
    skipChain s = .next { s with pc := e }

/-- Where some set of addresses holds PC, and at each of its addresses plain memory holds a conditional instruction after
which the next address, 2 or 4 further on, is in the set again, SkipChain (and with it BOVF with OF = 0, for one)
answers the fault endlessSkip. The loop of the spec has no end there; the fault is the choice of the model (log 20).
Derived: 42_branch.md section 1; 92_eei_decisions.md D17. -/
def Obligations.SkipChainEndless : Prop :=
  ∀ (s : State) (met : Word → Prop), met s.pc →
    (∀ a : Word, met a → s.wordPlain a = true ∧ ∃ i, decodeFirst s.cfg (s.word a) = .ok i ∧ isConditional i = true ∧
      met (a + BitVec.ofNat 16 (2 * i.words))) →
    skipChain s = .fault .endlessSkip ∧ (s.flags.overflow = false → exec .bovf s = .fault .endlessSkip)

/-- The word 0x58 with two register fields decodes to SWP. It answers a next state in which REG3 holds what REG2 held and
REG2 what REG3 held (R0 stays 0, the same register twice stays as it is); every other register, PC, FLAGS, RAM and
everything else are as before. Stated: R181. -/
def Obligations.SwapCompletes : Prop :=
  (∀ (c : Config) (rb rc : Reg), decodeFirst c (word2P 0x58#8 rb.code rc.code) = .ok (.swp rb rc)) ∧
  ∀ (s : State) (rb rc : Reg), ∃ t, exec (.swp rb rc) s = .next t ∧
    t.reg rc = (if rc = .r0 then 0#16 else s.reg rb) ∧ t.reg rb = (if rb = .r0 then 0#16 else s.reg rc) ∧
    SameRegs s t [rb, rc] ∧ t.pc = s.pc ∧ t.flags = s.flags ∧ SameMem s t [] ∧ SameOther s t

/-- The words 0x59, 0x5A, 0x202 and 0x203 with their fields decode to CPY, SET (with its literal word where the field is
1111), XCHG and SXTBD. Each answers a next state in which REG3 (R0 stays 0) is the value of REG2, the literal, the
value with its two bytes exchanged, the low byte sign-extended, and nothing else has changed. Stated: R182, R183,
R184, R185. -/
def Obligations.MovesComplete : Prop :=
  (∀ (c : Config) (rb rc : Reg) (l : Lit) (v : Word), l.wf = true →
    decodeFirst c (word2P 0x59#8 rb.code rc.code) = .ok (.cpy rb rc) ∧
    decode c (word2P 0x5A#8 l.field rc.code) (l.words.headD v) = .ok (.setL l rc) ∧
    decodeFirst c (word1P 0x202#12 rc.code) = .ok (.xchg rc) ∧
    decodeFirst c (word1P 0x203#12 rc.code) = .ok (.sxtbd rc)) ∧
  (∀ (v : BitVec 4) (w : Word), (litValue (.short v)).toNat = v.toNat ∧ litValue (.word w) = w) ∧
  ∀ (s : State) (rb rc : Reg) (l : Lit) (i : Instr) (v : Word),
    (i = .cpy rb rc ∧ v = s.reg rb) ∨ (i = .setL l rc ∧ v = litValue l) ∨
      (i = .xchg rc ∧ v = (s.reg rc).rotateLeft 8) ∨
      (i = .sxtbd rc ∧ v.extractLsb' 0 8 = (s.reg rc).extractLsb' 0 8 ∧
        ∀ j : Nat, 8 ≤ j → j < 16 → v.getLsbD j = (s.reg rc).getLsbD 7) →
    ∃ t, exec i s = .next t ∧ OnlyReg s t rc v

/-- The word 0x7E with a literal field and a register field decodes to JMP [REG3 + LITERAL], with its literal word where
the field is 1111. It answers a next state in which PC is the sum of REG3 and the literal modulo 2^16 and nothing else
has changed. Stated: R191. -/
def Obligations.JmpAbsoluteCompletes : Prop :=
  (∀ (c : Config) (rc : Reg) (l : Lit) (v : Word), l.wf = true →
    decode c (word2P 0x7E#8 l.field rc.code) (l.words.headD v) = .ok (.jmpAbs l rc)) ∧
  ∀ (s : State) (rc : Reg) (l : Lit), ∃ t, exec (.jmpAbs l rc) s = .next t ∧
    t.pc.toNat = ((s.reg rc).toNat + (litValue l).toNat) % 2 ^ 16 ∧
    SameRegs s t [] ∧ t.flags = s.flags ∧ SameMem s t [] ∧ SameOther s t

/-- JMP [LITERAL] answers a next state in which PC is the advanced PC plus the 9-bit literal read as -256 to 255,
unscaled, modulo 2^16, and nothing else has changed. Which PC and which unit is decision D18 of the spec. Derived:
44_jump.md section 2; 30_encoding.md section 3; 92_eei_decisions.md D18. -/
def Obligations.JmpRelativeCompletes : Prop :=
  ∀ (s : State) (d : BitVec 9), ∃ t, exec (.jmpRel d) s = .next t ∧
    t.pc = BitVec.ofInt 16 ((s.pc.toNat : Int) + d.toInt) ∧
    SameRegs s t [] ∧ t.flags = s.flags ∧ SameMem s t [] ∧ SameOther s t

/-- Where the word two below SP can be written, CALL answers a next state in which SP is 2 lower, the advanced PC has been
stored at the new SP, PC is the target (REG3 plus the literal, or the advanced PC plus the signed 9-bit literal)
computed with SP as it was before, and every other register, FLAGS, every other octet of RAM and everything else are
as before. Order and step are decisions D20 and D21 of the spec. Derived: 44_jump.md sections 1 and 2; 45_stack.md;
92_eei_decisions.md D18, D20, D21. -/
def Obligations.CallCompletes : Prop :=
  ∀ (s : State) (rc : Reg) (l : Lit) (d : BitVec 9) (i : Instr) (target : Word),
    (i = .callAbs l rc ∧ target = s.reg rc + litValue l) ∨
      (i = .callRel d ∧ target = BitVec.ofInt 16 ((s.pc.toNat : Int) + d.toInt)) →
    s.wordWritable (s.reg .r15 - 2#16) = true →
    ∃ t, exec i s = .next t ∧ t.pc = target ∧ t.reg .r15 = s.reg .r15 - 2#16 ∧ SameRegs s t [.r15] ∧
      Stored s t (wordPuts s (s.reg .r15 - 2#16) s.pc) ∧ t.flags = s.flags ∧ SameSpecial s t ∧ SameWorld s t

/-- Where the word at SP can be read, RET answers a next state in which PC is the word read there (in RAM and ROM the one
that stands there), SP is 2 higher, and every other register, FLAGS with IF among them, RAM and everything else are as
before. Derived: 44_jump.md section 2; 45_stack.md; 92_eei_decisions.md D21. -/
def Obligations.RetCompletes : Prop :=
  ∀ s : State, s.wordReadable (s.reg .r15) = true →
    ∃ t v, exec .ret s = .next t ∧ t.pc = v ∧ (s.wordPlain (s.reg .r15) = true → v = s.word (s.reg .r15)) ∧
      t.reg .r15 = s.reg .r15 + 2#16 ∧ SameRegs s t [.r15] ∧ t.flags = s.flags ∧ SameMem s t [] ∧ SameOther s t

/-- Where the word two below SP can be written, PUSH answers a next state with SP 2 lower, the value REG3 had before (also
where REG3 is SP) stored at the new SP, and nothing else changed. Where the word at SP can be read, POP answers a next
state with REG3 the word read (R0 stays 0, POP SP leaves the popped value in SP), SP 2 higher otherwise, and nothing
else changed. The step and both SP cases are decision D21 of the spec. Derived: 45_stack.md; 92_eei_decisions.md D21,
D41. -/
def Obligations.PushPopComplete : Prop :=
  ∀ (s : State) (rc : Reg),
    (s.wordWritable (s.reg .r15 - 2#16) = true →
      ∃ t, exec (.push rc) s = .next t ∧ t.reg .r15 = s.reg .r15 - 2#16 ∧ SameRegs s t [.r15] ∧
        Stored s t (wordPuts s (s.reg .r15 - 2#16) (s.reg rc)) ∧ t.pc = s.pc ∧ t.flags = s.flags ∧
        SameSpecial s t ∧ SameWorld s t) ∧
    (s.wordReadable (s.reg .r15) = true →
      ∃ t v, exec (.pop rc) s = .next t ∧ (s.wordPlain (s.reg .r15) = true → v = s.word (s.reg .r15)) ∧
        t.reg rc = (if rc = .r0 then 0#16 else v) ∧ (rc ≠ .r15 → t.reg .r15 = s.reg .r15 + 2#16) ∧
        SameRegs s t [rc, .r15] ∧ t.pc = s.pc ∧ t.flags = s.flags ∧ SameMem s t [] ∧ SameOther s t)

/-- The words 0x0000, 0x209 with a register field and 0x0004 decode to NOP, GETY and CLRDIVERR. NOP answers the state as
it is; GETY a next state that differs in REG3 only, which holds Y (R0 stays 0); CLRDIVERR one that differs in DE only,
which is 0. no other instruction clears DE. A failed test skips a NOP as one word and stops there. FLAGS read as a
word by GETFLAGS has bits 15 to 4 at 0 and so lies in 0x0000 to 0x000F. Stated: R35, R205, R210, R211. -/
def Obligations.NopAndReads : Prop :=
  (∀ (c : Config) (rc : Reg), decodeFirst c 0x0000#16 = .ok .nop ∧
    decodeFirst c (word1P 0x209#12 rc.code) = .ok (.gety rc) ∧ decodeFirst c 0x0004#16 = .ok .clrdiverr) ∧
  ∀ (s : State) (rc : Reg),
    exec .nop s = .next s ∧
    (∃ t, exec (.gety rc) s = .next t ∧ OnlyReg s t rc s.y) ∧
    exec .clrdiverr s = .next { s with flags := { s.flags with divError := false } } ∧
    (flagsWord s.flags).extractLsb' 4 12 = 0#12 ∧
    (∃ t, exec (.getflags rc) s = .next t ∧ (t.reg rc).toNat ≤ 0x000F) ∧
    isConditional .nop = false ∧ Instr.words .nop = 1 ∧
    ∀ (i : Instr) (t : State), exec i s = .next t → s.flags.divError = true → t.flags.divError = false →
      i = .clrdiverr

/-- Under CLASH_POLICY = first_listed the word 0x207 decodes to GETFLAGS. It answers a next state in which REG3 is 8 * OF
+ 4 * CF + 2 * DE + IF (R0 stays 0) and nothing else has changed. Which policy holds is decision D1 of the spec.
Derived: 46_special.md; 10_state.md section 4; 30_encoding.md section 5. -/
def Obligations.GetflagsCompletes : Prop :=
  (∀ (c : Config) (rc : Reg), c.clash = .firstListed →
    decodeFirst c (word1P 0x207#12 rc.code) = .ok (.getflags rc)) ∧
  ∀ (s : State) (rc : Reg), ∃ t v, exec (.getflags rc) s = .next t ∧ OnlyReg s t rc v ∧
    v.toNat = 8 * s.flags.overflow.toNat + 4 * s.flags.carry.toNat + 2 * s.flags.divError.toNat + s.flags.interrupt.toNat

/-- GETPC answers a next state in which REG3 is the address of the GETPC word plus 2 (which is the advanced PC), or plus 4
under GETPC_OFFSET = 4 (decision D19 of the spec); SETY one in which Y is REG3 or the literal; SLEEP one in which the
CPU sleeps (R206); nothing else has changed in any of them. Derived: 46_special.md; 92_eei_decisions.md D1, D19, D28. -/
def Obligations.SpecialCompletes : Prop :=
  ∀ (s : State) (rc : Reg) (l : Lit),
    (s.cfg.getpcOffset = .two → ∃ t, exec (.getpc rc) s = .next t ∧ OnlyReg s t rc s.pc) ∧
    (s.cfg.getpcOffset = .four → ∃ t, exec (.getpc rc) s = .next t ∧ OnlyReg s t rc (s.pc + 2#16)) ∧
    exec (.setyR rc) s = .next { s with y := s.reg rc } ∧
    exec (.setyL l) s = .next { s with y := litValue l } ∧
    exec .sleep s = .next { s with asleep := true }

/-- The words 0x20C, 0x20D and 0x20F with their field decode to GETIA, SETIA REG3 and SETIA LITERAL (with its literal word
where the field is 1111); 0x20E is unassigned where EXTRA_OPCODES is empty. GETIA answers a next state that differs in
REG3 only, which holds IA (R0 stays 0). SETIA answers one that differs in IA only, which is REG3 or the literal; with
no interrupt in service one can be accepted after it exactly when that is not 0. Stated: R222, R223. -/
def Obligations.InterruptAddressMoves : Prop :=
  (∀ (c : Config) (rc : Reg) (l : Lit) (v : Word), l.wf = true →
    decodeFirst c (word1P 0x20C#12 rc.code) = .ok (.getia rc) ∧
    decodeFirst c (word1P 0x20D#12 rc.code) = .ok (.setiaR rc) ∧
    decode c (word1P 0x20F#12 l.field) (l.words.headD v) = .ok (.setiaL l) ∧
    (c.extra = [] →
      decodeFirst c (word1P 0x20E#12 rc.code) = .ok (.unassigned (word1P 0x20E#12 rc.code)))) ∧
  ∀ (s : State) (rc : Reg) (l : Lit),
    (∃ t, exec (.getia rc) s = .next t ∧ OnlyReg s t rc s.ia) ∧
    exec (.setiaR rc) s = .next { s with ia := s.reg rc } ∧
    exec (.setiaL l) s = .next { s with ia := litValue l } ∧
    (s.flags.interrupt = false → ∀ v : Word, canAccept { s with ia := v } = true ↔ v ≠ 0#16)

/-- With IA other than 0 and IF = 0 and room on the stack, INT answers the state after the entry with the message REG3 (as
it was before) or the literal: the advanced PC and then R1 pushed, R1 the message, PC at IA, IF set, all else as
before. With IA = 0 or IF = 1 it answers the state as it is. The push order and the dropping are decisions D22, D24
and D25 of the spec. Derived: 47_interrupt_instr.md; 60_exceptions.md sections 1, 2 and 4; 92_eei_decisions.md D22,
D24, D25, D26. -/
def Obligations.SoftwareInterruptCompletes : Prop :=
  ∀ (s : State) (rc : Reg) (l : Lit) (i : Instr) (m : Word),
    (i = .intR rc ∧ m = s.reg rc) ∨ (i = .intL l ∧ m = litValue l) →
    (s.ia ≠ 0#16 → s.flags.interrupt = false → s.entryWritable = true →
      ∃ t, exec i s = .next t ∧ Entered s t m) ∧
    (s.ia = 0#16 ∨ s.flags.interrupt = true → exec i s = .next s)

/-- Where the words at SP and SP + 2 can be read, RFI answers a next state with R1 the first and PC the second word read,
SP 4 higher, IF 0 and the IACQ line low, all other registers, flags and state as before. After an entry from s, with
the stack in RAM, from any later state u with SP where the entry left it, the two stacked words and the parameters as
they were, RFI gives back the R1, PC and SP that s had, changes no other register and no other flag, and makes
acceptance possible again where IA is not 0; RET there puts the saved R1 into PC and leaves IF. No other instruction
lowers IACQ. The step of 2 octets a pop is decision D21 of the spec, the order of the two words D22, IF as the IACQ
line D23. Derived: 60_exceptions.md sections 4 and 5; 47_interrupt_instr.md; 45_stack.md; 92_eei_decisions.md D21,
D22, D23, D29. -/
def Obligations.ReturnFromInterrupt : Prop :=
  (∀ s : State, s.wordReadable (s.reg .r15) = true → s.wordReadable (s.reg .r15 + 2#16) = true →
    ∃ t v1 v2, exec .rfi s = .next t ∧
      (s.wordPlain (s.reg .r15) = true → v1 = s.word (s.reg .r15)) ∧
      (s.wordPlain (s.reg .r15 + 2#16) = true → v2 = s.word (s.reg .r15 + 2#16)) ∧
      t.reg .r1 = v1 ∧ t.pc = v2 ∧ t.reg .r15 = s.reg .r15 + 4#16 ∧ SameRegs s t [.r1, .r15] ∧
      t.flags = { s.flags with interrupt := false } ∧ t.iacq = false ∧ SameMem s t [] ∧ SameOther s t) ∧
  (∀ (s t u : State) (m : Word), s.wordRam (s.reg .r15 - 2#16) = true → s.wordRam (s.reg .r15 - 4#16) = true →
    interruptEntry m s = .next t → u.reg .r15 = t.reg .r15 → u.cfg = t.cfg →
    u.word (t.reg .r15) = t.word (t.reg .r15) → u.word (t.reg .r15 + 2#16) = t.word (t.reg .r15 + 2#16) →
    (∃ v, exec .rfi u = .next v ∧ v.reg .r1 = s.reg .r1 ∧ v.pc = s.pc ∧ v.reg .r15 = s.reg .r15 ∧
      SameRegs u v [.r1, .r15] ∧ v.flags = { u.flags with interrupt := false } ∧ v.ia = u.ia ∧
      (u.ia ≠ 0#16 → canAccept v = true)) ∧
    ∃ v, exec .ret u = .next v ∧ v.pc = s.reg .r1 ∧ v.flags = u.flags) ∧
  ∀ (i : Instr) (s t : State), exec i s = .next t → s.iacq = true → t.iacq = false → i = .rfi

/-- In an awake state with IA other than 0, IF = 0, the INT line low at this boundary and room on the stack, the step is
the interrupt entry with the value on the data bus as message: the address of the instruction not yet fetched and R1
are pushed, R1 is the message, PC is at IA, IF is set, and no instruction is executed. Derived: 60_exceptions.md
sections 2, 4 and 11; 92_eei_decisions.md D22, D24, D27. -/
def Obligations.HardwareInterruptEntered : Prop :=
  ∀ s : State, s.asleep = false → s.ia ≠ 0#16 → s.flags.interrupt = false → s.pins.intLow = true →
    s.entryWritable = true → ∃ t, step s = .next t ∧ Entered s.tick t s.pins.dataBus

/-- In a sleeping state a step with the INT line high changes nothing but the count of boundaries. With the line low,
where an interrupt can be accepted and the stack has room, it is the interrupt entry, awake, with the address after
the SLEEP pushed; where none can be accepted it changes nothing under SLEEP_WAKE = only_when_taken and wakes only
under any_int_line (decision D28 of the spec). Derived: 46_special.md; 60_exceptions.md sections 10 and 11;
92_eei_decisions.md D28. -/
def Obligations.SleepingStep : Prop :=
  ∀ s : State, s.asleep = true →
    (s.pins.intLow = false → step s = .next s.tick) ∧
    (s.pins.intLow = true → canAccept s = true → s.entryWritable = true →
      ∃ t, step s = .next t ∧ Entered { s.tick with asleep := false } t s.pins.dataBus) ∧
    (s.pins.intLow = true → canAccept s = false → s.cfg.sleepWake = .onlyWhenTaken → step s = .next s.tick) ∧
    (s.pins.intLow = true → canAccept s = false → s.cfg.sleepWake = .anyIntLine →
      step s = .next { s.tick with asleep := false })

/-- Where the CPU sleeps, wakes only for an interrupt it takes, and can accept none (IA = 0 or IF = 1), then for every n
the run of n steps answers the same state with n boundaries passed, whatever stands on the input lines: the end of a
run under the default HALT_CONVENTION (decision D38 of the spec). Derived: 46_special.md; 70_reset_and_hazards.md
section 1; 92_eei_decisions.md D28, D38. -/
def Obligations.SleepForGood : Prop :=
  ∀ (n : Nat) (s : State), s.sleepsForGood = true →
    run n s = .next { s with inputs := s.inputs.drop n, boundary := s.boundary + n }

/-- Where IA = 0 or IF = 1, and the CPU is awake or wakes only for an interrupt it takes, two steps that differ only in
the sample of the INT line and the data bus at this boundary give the same outcome. Derived: 60_exceptions.md sections
1, 2 and 5; 92_eei_decisions.md D23, D24, D25. -/
def Obligations.InServiceIgnoresIntLine : Prop :=
  ∀ (s : State) (p q : Pins) (rest : List Pins), canAccept s = false →
    (s.asleep = false ∨ s.cfg.sleepWake = .onlyWhenTaken) →
    step { s with inputs := p :: rest } = step { s with inputs := q :: rest }

/-- INP answers a next state in which REG3 (R0 stays 0) is the next answer of the IO space, the whole word or under
IO_DATA_WIDTH = 8 its low 8 bits zero-extended: the next listed answer, which is used up, or where none is listed a
free value of the port; nothing else changes. OUT answers a next state that differs only in one output event more,
with the port and REG3 in the same width. Width and port are decision D30 of the spec; where the datum comes from, a
list in the order of the reads whatever their port and then a free value, is the choice of the model, as is the list
of outputs (log 11). Derived: 48_io.md; 20_memory.md section 4; 92_eei_decisions.md D30. -/
def Obligations.IoCompletes : Prop :=
  ∀ (s : State) (rb rc : Reg) (l : Lit) (i : Instr) (b : Word) (widen : Word → Word),
    (s.cfg.ioDataWidth = .sixteen → ∀ v, widen v = v) → (s.cfg.ioDataWidth = .eight → ∀ v, widen v = v &&& 0x00FF#16) →
    ((i = .inpR rb rc ∧ b = s.reg rb) ∨ (i = .inpL l rc ∧ b = litValue l) →
      ∃ t, exec i s = .next t ∧
        RegBecomes s t rc (widen (s.ioInputs.headD (Config.freeIoAnswer s.boundary (b.extractLsb' 0 8)))) ∧
        t.ioInputs = s.ioInputs.tail ∧ t.pc = s.pc ∧ t.flags = s.flags ∧ SameMem s t [] ∧ SameSpecial s t ∧
        t.outputs = s.outputs ∧ t.inputs = s.inputs ∧ t.boundary = s.boundary ∧ t.cfg = s.cfg) ∧
    ((i = .outR rb rc ∧ b = s.reg rb) ∨ (i = .outL l rc ∧ b = litValue l) →
      exec i s = .next { s with outputs := s.outputs ++ [.io (b.extractLsb' 0 8) (widen (s.reg rc))] })

/-- In an awake state with no interrupt to be accepted at this boundary, where the words at PC stand in plain memory (the
second one is asked for only where the first announces it) and decode to i, the step is exec of i at that state with
PC moved past the 1 or 2 words of i and this boundary passed: its sample of the input lines used up, the step counted.
Derived: 30_encoding.md section 1; 60_exceptions.md section 11; 92_eei_decisions.md D18. -/
def Obligations.StepRunsDecoded : Prop :=
  ∀ (s : State) (i : Instr), s.asleep = false → (canAccept s && s.pins.intLow) = false →
    s.wordPlain s.pc = true → (i.words = 2 → s.wordPlain (s.pc + 2#16) = true) →
    decode s.cfg (s.word s.pc) (s.word (s.pc + 2#16)) = .ok i →
    step s = exec i { s with
      pc := s.pc + BitVec.ofNat 16 (2 * i.words), inputs := s.inputs.tail, boundary := s.boundary + 1 }

/-- Under the default parameters the words of the examples decode as the spec says: LOAD [R2 + 4], R3; LOAD.B [R2 + R4],
R3; STORE [R0 + 0x2000], R5; ADD R1, R2; ADD R1, R15 (one word); SET R1, 0x1234; BUGE R1, 10; JMP -2; INT 5; SETIA
0x0100; RFI. Derived: 40_ram.md; 41_alu.md; 43_register.md; 44_jump.md; 47_interrupt_instr.md; 30_encoding.md section
4. -/
def Obligations.DecodeWords : Prop :=
  decode defaultConfig 0x8243#16 0#16 = .ok (.loadL .r2 (.short 4#4) .r3) ∧
  decode defaultConfig 0xB243#16 0#16 = .ok (.loadbR .r2 .r4 .r3) ∧
  decode defaultConfig 0xC0F5#16 0x2000#16 = .ok (.storeL .r0 (.word 0x2000#16) .r5) ∧
  decode defaultConfig 0x4021#16 0#16 = .ok (.addR .r2 .r1) ∧
  decode defaultConfig 0x40F1#16 0#16 = .ok (.addR .r15 .r1) ∧
  decode defaultConfig 0x5AF1#16 0x1234#16 = .ok (.setL (.word 0x1234#16) .r1) ∧
  decode defaultConfig 0x68A1#16 0#16 = .ok (.bugeL (.short 10#4) .r1) ∧
  decode defaultConfig 0x13FE#16 0#16 = .ok (.jmpRel (BitVec.ofInt 9 (-2))) ∧
  decode defaultConfig 0x20B5#16 0#16 = .ok (.intL (.short 5#4)) ∧
  decode defaultConfig 0x20FF#16 0x0100#16 = .ok (.setiaL (.word 0x0100#16)) ∧
  decode defaultConfig 0x0003#16 0#16 = .ok .rfi

/-- For every choice of parameters whose EXTRA_OPCODES is a partial map from unassigned opcodes to shadowed forms, every
well-formed instruction that has an encoding under them (its own, or the one EXTRA_OPCODES gives it), with every
operand at every value the encoding admits: the octets of its encoding, in the byte order of the parameters, followed
by any others, decode to that instruction and leave the others. Derived: 30_encoding.md sections 1 to 7; 20_memory.md
section 1; 92_eei_decisions.md D1, D3. -/
def Obligations.DecodeOfEncode : Prop :=
  ∀ (c : Config) (i : Instr) (bs rest : List Byte), c.valid = true → i.wf = true → encodeOctets c i = some bs →
    decodeOctets c (bs ++ rest) = .ok (i, rest)

/-- With EXTRA_OPCODES empty, under every clash policy: where a first word and the word after it decode to an instruction
(reserved and unassigned words among them), the encoding of that instruction is the first word, followed by the second
exactly where the instruction is two words long. So no word has two meanings, and no bit of a word is dropped.
Derived: 30_encoding.md sections 1 to 7; 92_eei_decisions.md D1, D2. -/
def Obligations.EncodeOfDecode : Prop :=
  ∀ (c : Config) (w lit : Word) (i : Instr), c.extra = [] → decode c w lit = .ok i →
    encodeUnder c i = some (if i.words = 2 then [w, lit] else [w])

/-- With EXTRA_OPCODES empty and a clash policy other than refuse, every 16-bit word decodes to a well-formed instruction;
under every policy a word decodes to unassigned exactly when it lies in one of the ranges that the spec lists as
having no line, and to reserved exactly when it is 0x3000 to 0x3FFF. Derived: 30_encoding.md sections 4, 6 and 7;
93_implementation_defined.md section 2; 92_eei_decisions.md D2. -/
def Obligations.DecodeTotal : Prop :=
  ∀ (c : Config) (w : Word), c.extra = [] →
    (c.clash ≠ .refuse → ∃ i, decodeFirst c w = .ok i ∧ i.wf = true) ∧
    (∀ v, decodeFirst c w = .ok (.unassigned v) ↔ v = w ∧ lineless w = true) ∧
    (∀ x, decodeFirst c w = .ok (.reserved x) ↔ w = 0x3#4 ++ x)

/-- With EXTRA_OPCODES empty a word never decodes to a form of a clashing opcode that the policy does not keep (BBITS,
BCLEAR, INP, OUT and SETY REG3 under first_listed, ROTR, MUL, DIV and GETFLAGS under later_listed, all of them under
refuse), else only where an entry gives the opcode of the word to that form; under refuse never, whatever
EXTRA_OPCODES says, which is how the model takes R100 (log 3). Under refuse exactly the words 0x5200 to 0x57FF and
0x2070 to 0x207F decode to nothing, and a step of an awake CPU that fetches one is refused. The policy is decision D1
of the spec. Derived: 30_encoding.md section 5; 92_eei_decisions.md D1. -/
def Obligations.ClashPolicies : Prop :=
  (∀ (c : Config) (w : Word) (i : Instr) (f : ClashForm), decodeFirst c w = .ok i → i.clashForm? = some f →
    (c.extra = [] → c.clash.keeps f.isFirst = true) ∧ c.clash ≠ .refuse ∧
    (c.clash.keeps f.isFirst = false → ∃ e ∈ c.extra, e.form = f ∧ e.opcode.covers w = true)) ∧
  (∀ (c : Config) (w : Word) (e : DecodeError), decodeFirst c w = .error e ↔
    e = .clash w ∧ c.clash = .refuse ∧
      (0x5200 ≤ w.toNat ∧ w.toNat ≤ 0x57FF ∨ 0x2070 ≤ w.toNat ∧ w.toNat ≤ 0x207F)) ∧
  ∀ (s : State) (e : DecodeError), s.asleep = false → (canAccept s && s.pins.intLow) = false → s.wordPlain s.pc = true →
    decodeFirst s.cfg (s.word s.pc) = .error e → step s = .refused (.clashRefused (s.word s.pc))

/-- Executing a reserved or an unassigned word is refused by name with the word; a skip chain that meets one in plain
memory, first of all or after any conditionals, is refused too with that word, its length being unknown, and so is one
that meets a clashing word under CLASH_POLICY = refuse, the only words that decode to nothing. Refusing is decisions
D1, D2 and D17 of the spec; that the chain treats a clashing word as it does an illegal one is how the model reads
R161 (log 2, log 21). Derived: 30_encoding.md sections 5 and 6; 42_branch.md section 1; 92_eei_decisions.md D1, D2,
D17. -/
def Obligations.IllegalWordsRefused : Prop :=
  ∀ (s : State) (x : BitVec 12) (w : Word) (i : Instr),
    exec (.reserved x) s = .refused (.illegalWord (0x3#4 ++ x)) ∧
    exec (.unassigned w) s = .refused (.illegalWord w) ∧
    ∀ (cs : List Instr) (q : Word), SkipsOver s cs s.pc q → s.wordPlain q = true →
      (decodeFirst s.cfg (s.word q) = .ok i ∧ (i = .reserved x ∨ i = .unassigned w)) ∨
        (∃ e, decodeFirst s.cfg (s.word q) = .error e) →
      skipChain s = .refused (.skipOverIllegal (s.word q))

/-- Whenever an instruction answers a next state: OF differs only after ADD, ADDC, SUB, SUBC; CF only after these and SLL,
SRL, SRA; DE is set only by DIV and cleared only by CLRDIVERR; IF is set only by INT and DIV (an interrupt entry) and
cleared only by RFI. Derived: 10_state.md section 4; 92_eei_decisions.md D8, D10, D14, D23. -/
def Obligations.FlagWriters : Prop :=
  ∀ (i : Instr) (s t : State), exec i s = .next t →
    (t.flags.overflow ≠ s.flags.overflow → isAddSub i = true) ∧
    (t.flags.carry ≠ s.flags.carry → isAddSub i = true ∨ isShift i = true) ∧
    (s.flags.divError = false → t.flags.divError = true → isDiv i = true) ∧
    (s.flags.divError = true → t.flags.divError = false → i = .clrdiverr) ∧
    (s.flags.interrupt = false → t.flags.interrupt = true → isInt i = true ∨ isDiv i = true) ∧
    (s.flags.interrupt = true → t.flags.interrupt = false → i = .rfi)

/-- Whenever an instruction answers a next state: Y differs only after MUL, DIV and SETY, IA only after SETIA, and whether
the CPU sleeps only after SLEEP. An interrupt entry is among the things that change none of the three. Derived:
10_state.md sections 5 and 8; 60_exceptions.md section 4. -/
def Obligations.SpecialWriters : Prop :=
  ∀ (i : Instr) (s t : State), exec i s = .next t →
    (t.y ≠ s.y → writesY i = true) ∧ (t.ia ≠ s.ia → writesIa i = true) ∧ (t.asleep ≠ s.asleep → i = .sleep)

/-- Whenever an instruction answers a next state: unless it is STORE, STORE.B, PUSH, CALL, INT or DIV, all of RAM is as
before, and unless it is one of these or OUT nothing has been put out; whatever is put out by an instruction other
than OUT is an octet for a device region of RAM and nothing for the IO space; an answer of the IO space is used up
only by INP. A failed conditional, which reads what it skips, writes nothing. Derived: 20_memory.md section 3;
45_stack.md; 48_io.md. -/
def Obligations.MemoryWriters : Prop :=
  ∀ (i : Instr) (s t : State), exec i s = .next t →
    (writesRam i = false → t.mem = s.mem) ∧ (writesRam i = false → isOut i = false → t.outputs = s.outputs) ∧
    (∃ out : List Output, t.outputs = s.outputs ++ out ∧
      (isOut i = false → ∀ o ∈ out, ∃ a b, o = .mem a b ∧ s.kindAt a = .device)) ∧
    (isInp i = false → t.ioInputs = s.ioInputs)

/-- Whenever a step answers a next state, every octet of RAM outside those that the step writes (the word or octet of a
store, of a push, the two words of an interrupt entry) is as before; whatever it puts out to a device region is for
one of those octets, which stands in a device region, and each of those octets that stands in a device region is put
out. Derived: 20_memory.md section 3; 45_stack.md; 60_exceptions.md sections 4 and 11. -/
def Obligations.StepWritesItsOctets : Prop :=
  ∀ s t : State, step s = .next t → SameMem s t (stepOctets s) ∧
    ∃ out : List Output, t.outputs = s.outputs ++ out ∧
      (∀ a b, Output.mem a b ∈ out → a ∈ stepOctets s ∧ s.kindAt a = .device) ∧
      ∀ a ∈ stepOctets s, s.kindAt a = .device → ∃ b, Output.mem a b ∈ out

/-- A run has ended, and stays so: under the default convention when the CPU sleeps, wakes only for an interrupt it takes,
and IA = 0 or IF = 1 (decision D38 of the spec); under the jump to self when the CPU is awake and the word at PC is
0x13FE, in RAM or ROM and allowed to be fetched; under a write to an agreed address once a step has written that
octet, so that while it has not ended an octet of RAM there is as it was; under a write to an agreed IO address when
OUT has put a value out to it. The last two conventions, looking for them step by step, and where a jump to self
counts are the choice of the model (log 13). Derived: 70_reset_and_hazards.md section 1; 92_eei_decisions.md D38. -/
def Obligations.RunEnds : Prop :=
  (∀ (n : Nat) (s : State), runEnded n s = true → runEnded (n + 1) s = true) ∧
  (∀ s : State, s.cfg.halt = .sleepUnwakeable → (runEnded 0 s = true ↔
    s.asleep = true ∧ s.cfg.sleepWake = .onlyWhenTaken ∧ (s.ia = 0#16 ∨ s.flags.interrupt = true))) ∧
  (∀ s : State, s.cfg.halt = .jumpToSelf → (runEnded 0 s = true ↔
    s.asleep = false ∧ s.wordPlain s.pc = true ∧ s.word s.pc = 0x13FE#16)) ∧
  (∀ (s t : State) (a : Word), s.cfg.halt = .writeTo a → step s = .next t →
    (runEnded 1 s = true ↔ a ∈ stepOctets s) ∧ (runEnded 1 s = false → t.octet a = s.octet a)) ∧
  ∀ (s t : State) (p : Byte), s.cfg.halt = .outTo p → step s = .next t → (runEnded 1 s = true ↔
    ∃ out v, t.outputs = s.outputs ++ out ∧ Output.io p v ∈ out)
end

