-- ==== Sys2Proof/Laws/Decode.lean ====
section
/-! SUPPORT. The small lemmas of the decoder and the encoder: fields of words, registers, literals, octets. -/

namespace Sys2Proof

/-! ### Registers and literals as fields -/

@[simp] theorem Reg.ofBits_code (r : Reg) : Reg.ofBits r.code = r := by cases r <;> rfl

@[simp] theorem Reg.code_ofBits (b : BitVec 4) : (Reg.ofBits b).code = b := by
  revert b; decide

/-- A literal read from a field has that field (R90). -/
@[simp] theorem Lit.field_ofField (f : BitVec 4) : (Lit.ofField f).field = f := by
  unfold Lit.ofField
  split
  · rename_i h; rw [h]; rfl
  · rfl

/-- A short literal, read back from its field. -/
theorem Lit.ofField_short (f : BitVec 4) (h : (Lit.short f).wf = true) : Lit.ofField f = .short f := by
  have hf : f ≠ 15#4 := by simpa [Lit.wf] using h
  simp [Lit.ofField, hf]

/-- A literal read from a field is well formed. -/
theorem Lit.wf_ofField (f : BitVec 4) : (Lit.ofField f).wf = true := by
  unfold Lit.ofField
  split
  · rfl
  · simp_all [Lit.wf]

@[simp] theorem Lit.wf_fill (l : Lit) (v : Word) : (l.fill v).wf = l.wf := by cases l <;> rfl

@[simp] theorem Lit.field_fill (l : Lit) (v : Word) : (l.fill v).field = l.field := by cases l <;> rfl

@[simp] theorem Lit.length_words_fill (l : Lit) (v : Word) : (l.fill v).words.length = l.words.length := by
  cases l <;> rfl

/-! ### The literal word -/

/-- An instruction is one or two words long (R80). -/
theorem Instr.words_one_or_two (i : Instr) : i.words = 1 ∨ i.words = 2 := by
  unfold Instr.words
  split
  · exact .inr rfl
  · exact .inl rfl

/-- The literal word goes into the literal operand and nowhere else. -/
theorem Instr.literal_withLit (i : Instr) (v : Word) : (i.withLit v).literal? = i.literal?.map (·.fill v) := by
  cases i <;> rfl

/-- The literal word does not change how long an instruction is. -/
@[simp] theorem Instr.words_withLit (i : Instr) (v : Word) : (i.withLit v).words = i.words := by
  unfold Instr.words
  rw [Instr.literal_withLit]
  rcases i.literal? with _ | (_ | _) <;> rfl

/-! ### The fields of a word -/

/-- A concatenation as a number. -/
theorem toNat_append {m n : Nat} (x : BitVec m) (y : BitVec n) :
    (x ++ y).toNat = x.toNat * 2 ^ n + y.toNat := by
  rw [BitVec.toNat_append, ← Nat.shiftLeft_add_eq_or_of_lt y.isLt, Nat.shiftLeft_eq]

theorem word3P_toNat (op a b c : BitVec 4) :
    (word3P op a b c).toNat = op.toNat * 4096 + a.toNat * 256 + b.toNat * 16 + c.toNat := by
  unfold word3P
  erw [toNat_append (op ++ a ++ b) c, toNat_append (op ++ a) b, toNat_append op a]
  omega

theorem word2P_toNat (op : BitVec 8) (a b : BitVec 4) :
    (word2P op a b).toNat = op.toNat * 256 + a.toNat * 16 + b.toNat := by
  unfold word2P
  erw [toNat_append (op ++ a) b, toNat_append op a]
  omega

theorem word1P_toNat (op : BitVec 12) (a : BitVec 4) : (word1P op a).toNat = op.toNat * 16 + a.toNat := by
  unfold word1P
  erw [toNat_append op a]
  omega

theorem word1L_toNat (op : BitVec 7) (d : BitVec 9) : (word1L op d).toNat = op.toNat * 512 + d.toNat := by
  unfold word1L
  erw [toNat_append op d]
  omega

@[simp] theorem word3P_top (op a b c : BitVec 4) :
    (word3P op a b c).extractLsb' 15 1 = op.extractLsb' 3 1 := by
  apply BitVec.eq_of_toNat_eq
  simp only [BitVec.extractLsb'_toNat, word3P_toNat, Nat.shiftRight_eq_div_pow]
  omega

@[simp] theorem word3P_low (op a b c : BitVec 4) :
    (word3P op a b c).extractLsb' 12 3 = op.extractLsb' 0 3 := by
  apply BitVec.eq_of_toNat_eq
  simp only [BitVec.extractLsb'_toNat, word3P_toNat, Nat.shiftRight_eq_div_pow]
  omega

@[simp] theorem word3P_op (op a b c : BitVec 4) :
    (word3P op a b c).extractLsb' 12 4 = op := by
  apply BitVec.eq_of_toNat_eq
  simp only [BitVec.extractLsb'_toNat, word3P_toNat, Nat.shiftRight_eq_div_pow]
  omega

@[simp] theorem word3P_ra (op a b c : BitVec 4) :
    (word3P op a b c).extractLsb' 8 4 = a := by
  apply BitVec.eq_of_toNat_eq
  simp only [BitVec.extractLsb'_toNat, word3P_toNat, Nat.shiftRight_eq_div_pow]
  omega

@[simp] theorem word3P_rb (op a b c : BitVec 4) :
    (word3P op a b c).extractLsb' 4 4 = b := by
  apply BitVec.eq_of_toNat_eq
  simp only [BitVec.extractLsb'_toNat, word3P_toNat, Nat.shiftRight_eq_div_pow]
  omega

@[simp] theorem word3P_rc (op a b c : BitVec 4) :
    (word3P op a b c).extractLsb' 0 4 = c := by
  apply BitVec.eq_of_toNat_eq
  simp only [BitVec.extractLsb'_toNat, word3P_toNat, Nat.shiftRight_eq_div_pow]
  omega

@[simp] theorem word2P_top (op : BitVec 8) (a b : BitVec 4) :
    (word2P op a b).extractLsb' 15 1 = op.extractLsb' 7 1 := by
  apply BitVec.eq_of_toNat_eq
  simp only [BitVec.extractLsb'_toNat, word2P_toNat, Nat.shiftRight_eq_div_pow]
  omega

@[simp] theorem word2P_form (op : BitVec 8) (a b : BitVec 4) :
    (word2P op a b).extractLsb' 14 2 = op.extractLsb' 6 2 := by
  apply BitVec.eq_of_toNat_eq
  simp only [BitVec.extractLsb'_toNat, word2P_toNat, Nat.shiftRight_eq_div_pow]
  omega

@[simp] theorem word2P_op (op : BitVec 8) (a b : BitVec 4) :
    (word2P op a b).extractLsb' 8 8 = op := by
  apply BitVec.eq_of_toNat_eq
  simp only [BitVec.extractLsb'_toNat, word2P_toNat, Nat.shiftRight_eq_div_pow]
  omega

@[simp] theorem word2P_rb (op : BitVec 8) (a b : BitVec 4) :
    (word2P op a b).extractLsb' 4 4 = a := by
  apply BitVec.eq_of_toNat_eq
  simp only [BitVec.extractLsb'_toNat, word2P_toNat, Nat.shiftRight_eq_div_pow]
  omega

@[simp] theorem word2P_rc (op : BitVec 8) (a b : BitVec 4) :
    (word2P op a b).extractLsb' 0 4 = b := by
  apply BitVec.eq_of_toNat_eq
  simp only [BitVec.extractLsb'_toNat, word2P_toNat, Nat.shiftRight_eq_div_pow]
  omega

@[simp] theorem word1P_top (op : BitVec 12) (a : BitVec 4) :
    (word1P op a).extractLsb' 15 1 = op.extractLsb' 11 1 := by
  apply BitVec.eq_of_toNat_eq
  simp only [BitVec.extractLsb'_toNat, word1P_toNat, Nat.shiftRight_eq_div_pow]
  omega

@[simp] theorem word1P_form (op : BitVec 12) (a : BitVec 4) :
    (word1P op a).extractLsb' 14 2 = op.extractLsb' 10 2 := by
  apply BitVec.eq_of_toNat_eq
  simp only [BitVec.extractLsb'_toNat, word1P_toNat, Nat.shiftRight_eq_div_pow]
  omega

@[simp] theorem word1P_form3 (op : BitVec 12) (a : BitVec 4) :
    (word1P op a).extractLsb' 13 3 = op.extractLsb' 9 3 := by
  apply BitVec.eq_of_toNat_eq
  simp only [BitVec.extractLsb'_toNat, word1P_toNat, Nat.shiftRight_eq_div_pow]
  omega

@[simp] theorem word1P_nibble (op : BitVec 12) (a : BitVec 4) :
    (word1P op a).extractLsb' 12 4 = op.extractLsb' 8 4 := by
  apply BitVec.eq_of_toNat_eq
  simp only [BitVec.extractLsb'_toNat, word1P_toNat, Nat.shiftRight_eq_div_pow]
  omega

@[simp] theorem word1P_op (op : BitVec 12) (a : BitVec 4) :
    (word1P op a).extractLsb' 4 12 = op := by
  apply BitVec.eq_of_toNat_eq
  simp only [BitVec.extractLsb'_toNat, word1P_toNat, Nat.shiftRight_eq_div_pow]
  omega

@[simp] theorem word1P_rc (op : BitVec 12) (a : BitVec 4) :
    (word1P op a).extractLsb' 0 4 = a := by
  apply BitVec.eq_of_toNat_eq
  simp only [BitVec.extractLsb'_toNat, word1P_toNat, Nat.shiftRight_eq_div_pow]
  omega

@[simp] theorem word1L_top (op : BitVec 7) (d : BitVec 9) :
    (word1L op d).extractLsb' 15 1 = op.extractLsb' 6 1 := by
  apply BitVec.eq_of_toNat_eq
  simp only [BitVec.extractLsb'_toNat, word1L_toNat, Nat.shiftRight_eq_div_pow]
  omega

@[simp] theorem word1L_form (op : BitVec 7) (d : BitVec 9) :
    (word1L op d).extractLsb' 14 2 = op.extractLsb' 5 2 := by
  apply BitVec.eq_of_toNat_eq
  simp only [BitVec.extractLsb'_toNat, word1L_toNat, Nat.shiftRight_eq_div_pow]
  omega

@[simp] theorem word1L_form3 (op : BitVec 7) (d : BitVec 9) :
    (word1L op d).extractLsb' 13 3 = op.extractLsb' 4 3 := by
  apply BitVec.eq_of_toNat_eq
  simp only [BitVec.extractLsb'_toNat, word1L_toNat, Nat.shiftRight_eq_div_pow]
  omega

@[simp] theorem word1L_nibble (op : BitVec 7) (d : BitVec 9) :
    (word1L op d).extractLsb' 12 4 = op.extractLsb' 3 4 := by
  apply BitVec.eq_of_toNat_eq
  simp only [BitVec.extractLsb'_toNat, word1L_toNat, Nat.shiftRight_eq_div_pow]
  omega

@[simp] theorem word1L_op (op : BitVec 7) (d : BitVec 9) :
    (word1L op d).extractLsb' 9 3 = op.extractLsb' 0 3 := by
  apply BitVec.eq_of_toNat_eq
  simp only [BitVec.extractLsb'_toNat, word1L_toNat, Nat.shiftRight_eq_div_pow]
  omega

@[simp] theorem word1L_lit (op : BitVec 7) (d : BitVec 9) :
    (word1L op d).extractLsb' 0 9 = d := by
  apply BitVec.eq_of_toNat_eq
  simp only [BitVec.extractLsb'_toNat, word1L_toNat, Nat.shiftRight_eq_div_pow]
  omega

/-! ### The format of a word (R81) -/

theorem decodeListed_3P (p : ClashPolicy) (op a b d : BitVec 4) (h : op.extractLsb' 3 1 = 1#1) :
    decodeListed p (word3P op a b d) = .ok (decode3P (word3P op a b d)) := by
  simp [decodeListed, h]

theorem decodeListed_2P (p : ClashPolicy) (op : BitVec 8) (a b : BitVec 4) (h1 : op.extractLsb' 7 1 = 0#1)
    (h : op.extractLsb' 6 2 = 1#2) : decodeListed p (word2P op a b) = decode2P p (word2P op a b) := by
  simp [decodeListed, h1, h]

theorem decodeListed_1P (p : ClashPolicy) (op : BitVec 12) (a : BitVec 4) (h1 : op.extractLsb' 11 1 = 0#1)
    (h2 : op.extractLsb' 10 2 = 0#2) (h : op.extractLsb' 9 3 = 1#3) :
    decodeListed p (word1P op a) = decode1P p (word1P op a) := by
  simp [decodeListed, h1, h2, h]

theorem decodeListed_1L (p : ClashPolicy) (op : BitVec 7) (d : BitVec 9) (h1 : op.extractLsb' 6 1 = 0#1)
    (h2 : op.extractLsb' 5 2 = 0#2) (h3 : op.extractLsb' 4 3 = 0#3) (h : op.extractLsb' 3 4 = 1#4) :
    decodeListed p (word1L op d) = .ok (decode1L (word1L op d)) := by
  simp [decodeListed, h1, h2, h3, h]

/-! ### `EXTRA_OPCODES` (R103) -/

/-- A word that has a line decodes by it, whatever `EXTRA_OPCODES` says. -/
theorem decodeFirst_of_listed (c : Config) (w : Word) (i : Instr) (h : decodeListed c.clash w = .ok i)
    (hu : ∀ v, i ≠ .unassigned v) : decodeFirst c w = .ok i := by
  unfold decodeFirst
  rw [h]
  cases i <;> first | rfl | exact absurd rfl (hu _)

/-- A word without a line decodes to what `EXTRA_OPCODES` makes of it. -/
theorem decodeFirst_of_unassigned (c : Config) (w v : Word) (h : decodeListed c.clash w = .ok (.unassigned v)) :
    decodeFirst c w = .ok (c.extraInstr v) := by
  simp only [decodeFirst, h]

/-- What `decodeListed` refuses, the decoder refuses. -/
theorem decodeFirst_error_iff (c : Config) (w : Word) (e : DecodeError) :
    decodeFirst c w = .error e ↔ decodeListed c.clash w = .error e := by
  unfold decodeFirst
  split
  · rename_i v h; simp [h]
  · rfl

/-- With `EXTRA_OPCODES` empty every word decodes by its line. -/
theorem decodeFirst_eq_listed (c : Config) (w : Word) (h : c.extra = []) : decodeFirst c w = decodeListed c.clash w := by
  unfold decodeFirst
  split
  · rename_i v hv
    simp [Config.extraInstr, Config.extraAt, h, hv]
  · rfl

/-- A form that `EXTRA_OPCODES` gives to a word is one that an entry names for it and the clash policy shadows. -/
theorem extraAt_eq_some (c : Config) (w : Word) (e : ExtraEntry) (h : c.extraAt w = some e) :
    e ∈ c.extra ∧ e.opcode.covers w = true ∧ c.clash.shadows e.form.isFirst = true := by
  have h1 := List.mem_of_find?_eq_some h
  have h2 := List.find?_some h
  rw [Bool.and_eq_true] at h2
  exact ⟨h1, h2⟩

/-- A form reads its own line (R101, R102). -/
theorem clashForm_instr (f : ClashForm) (w : Word) : (f.instr w).clashForm? = some f := by cases f <;> rfl

/-! ### Octets -/

/-- The octets of a word make the word again, in either order (R51). -/
@[simp] theorem joinOctets_splitWord (o : ByteOrder) (w : Word) :
    joinOctets o (splitWord o w).1 (splitWord o w).2 = w := by
  apply BitVec.eq_of_toNat_eq
  cases o <;> simp only [joinOctets, splitWord] <;> erw [toNat_append] <;>
    simp only [BitVec.extractLsb'_toNat, Nat.shiftRight_eq_div_pow] <;> omega

end Sys2Proof
end

