-- ==== Sys2Proof/Laws/State.lean ====
section
/-! SUPPORT. One lemma for each field after each update of the state, so that no later proof unfolds an update. -/

namespace Sys2Proof.Machine

variable (s : State)

/-! ### The numbered registers -/

/-- A write of a numbered register, read back: R0 discards it (R21). -/
theorem RegFile.get_set (g : RegFile) (r q : Reg) (v : Word) :
    (g.set r v).get q = if q = r ∧ r ≠ .r0 then v else g.get q := by
  cases r <;> cases q <;> rfl

@[simp] theorem RegFile.get_r0 (g : RegFile) : g.get .r0 = 0#16 := rfl

@[simp] theorem State.reg_r0 : s.reg .r0 = 0#16 := rfl

theorem State.reg_setReg (r q : Reg) (v : Word) :
    (s.setReg r v).reg q = if q = r ∧ r ≠ .r0 then v else s.reg q :=
  RegFile.get_set s.regs r q v

@[simp] theorem State.reg_setReg_of_ne (r q : Reg) (v : Word) (h : q ≠ r) : (s.setReg r v).reg q = s.reg q := by
  simp [State.reg_setReg, h]

@[simp] theorem State.reg_setReg_self (r : Reg) (v : Word) (h : r ≠ .r0) : (s.setReg r v).reg r = v := by
  simp [State.reg_setReg, h]

@[simp] theorem State.setReg_r0 (v : Word) : s.setReg .r0 v = s := rfl

/-! ### setReg -/

@[simp] theorem State.regs_setReg (r : Reg) (v : Word) : (s.setReg r v).regs = s.regs.set r v := rfl
@[simp] theorem State.pc_setReg (r : Reg) (v : Word) : (s.setReg r v).pc = s.pc := rfl
@[simp] theorem State.flags_setReg (r : Reg) (v : Word) : (s.setReg r v).flags = s.flags := rfl
@[simp] theorem State.y_setReg (r : Reg) (v : Word) : (s.setReg r v).y = s.y := rfl
@[simp] theorem State.ia_setReg (r : Reg) (v : Word) : (s.setReg r v).ia = s.ia := rfl
@[simp] theorem State.asleep_setReg (r : Reg) (v : Word) : (s.setReg r v).asleep = s.asleep := rfl
@[simp] theorem State.mem_setReg (r : Reg) (v : Word) : (s.setReg r v).mem = s.mem := rfl
@[simp] theorem State.inputs_setReg (r : Reg) (v : Word) : (s.setReg r v).inputs = s.inputs := rfl
@[simp] theorem State.ioInputs_setReg (r : Reg) (v : Word) : (s.setReg r v).ioInputs = s.ioInputs := rfl
@[simp] theorem State.outputs_setReg (r : Reg) (v : Word) : (s.setReg r v).outputs = s.outputs := rfl
@[simp] theorem State.boundary_setReg (r : Reg) (v : Word) : (s.setReg r v).boundary = s.boundary := rfl
@[simp] theorem State.cfg_setReg (r : Reg) (v : Word) : (s.setReg r v).cfg = s.cfg := rfl
@[simp] theorem State.octet_setReg (r : Reg) (v : Word) (x : Word) : (s.setReg r v).octet x = s.octet x := rfl
@[simp] theorem State.kindAt_setReg (r : Reg) (v : Word) (x : Word) : (s.setReg r v).kindAt x = s.kindAt x := rfl
@[simp] theorem State.wordAt_setReg (r : Reg) (v : Word) (x : Word) : (s.setReg r v).wordAt x = s.wordAt x := rfl

/-! ### setPc -/

@[simp] theorem State.regs_setPc (v : Word) : (s.setPc v).regs = s.regs := rfl
@[simp] theorem State.pc_setPc (v : Word) : (s.setPc v).pc = v := rfl
@[simp] theorem State.flags_setPc (v : Word) : (s.setPc v).flags = s.flags := rfl
@[simp] theorem State.y_setPc (v : Word) : (s.setPc v).y = s.y := rfl
@[simp] theorem State.ia_setPc (v : Word) : (s.setPc v).ia = s.ia := rfl
@[simp] theorem State.asleep_setPc (v : Word) : (s.setPc v).asleep = s.asleep := rfl
@[simp] theorem State.mem_setPc (v : Word) : (s.setPc v).mem = s.mem := rfl
@[simp] theorem State.inputs_setPc (v : Word) : (s.setPc v).inputs = s.inputs := rfl
@[simp] theorem State.ioInputs_setPc (v : Word) : (s.setPc v).ioInputs = s.ioInputs := rfl
@[simp] theorem State.outputs_setPc (v : Word) : (s.setPc v).outputs = s.outputs := rfl
@[simp] theorem State.boundary_setPc (v : Word) : (s.setPc v).boundary = s.boundary := rfl
@[simp] theorem State.cfg_setPc (v : Word) : (s.setPc v).cfg = s.cfg := rfl
@[simp] theorem State.reg_setPc (v : Word) (q : Reg) : (s.setPc v).reg q = s.reg q := rfl
@[simp] theorem State.octet_setPc (v : Word) (x : Word) : (s.setPc v).octet x = s.octet x := rfl
@[simp] theorem State.kindAt_setPc (v : Word) (x : Word) : (s.setPc v).kindAt x = s.kindAt x := rfl
@[simp] theorem State.wordAt_setPc (v : Word) (x : Word) : (s.setPc v).wordAt x = s.wordAt x := rfl

/-! ### setY -/

@[simp] theorem State.regs_setY (v : Word) : (s.setY v).regs = s.regs := rfl
@[simp] theorem State.pc_setY (v : Word) : (s.setY v).pc = s.pc := rfl
@[simp] theorem State.flags_setY (v : Word) : (s.setY v).flags = s.flags := rfl
@[simp] theorem State.y_setY (v : Word) : (s.setY v).y = v := rfl
@[simp] theorem State.ia_setY (v : Word) : (s.setY v).ia = s.ia := rfl
@[simp] theorem State.asleep_setY (v : Word) : (s.setY v).asleep = s.asleep := rfl
@[simp] theorem State.mem_setY (v : Word) : (s.setY v).mem = s.mem := rfl
@[simp] theorem State.inputs_setY (v : Word) : (s.setY v).inputs = s.inputs := rfl
@[simp] theorem State.ioInputs_setY (v : Word) : (s.setY v).ioInputs = s.ioInputs := rfl
@[simp] theorem State.outputs_setY (v : Word) : (s.setY v).outputs = s.outputs := rfl
@[simp] theorem State.boundary_setY (v : Word) : (s.setY v).boundary = s.boundary := rfl
@[simp] theorem State.cfg_setY (v : Word) : (s.setY v).cfg = s.cfg := rfl
@[simp] theorem State.reg_setY (v : Word) (q : Reg) : (s.setY v).reg q = s.reg q := rfl
@[simp] theorem State.octet_setY (v : Word) (x : Word) : (s.setY v).octet x = s.octet x := rfl
@[simp] theorem State.kindAt_setY (v : Word) (x : Word) : (s.setY v).kindAt x = s.kindAt x := rfl
@[simp] theorem State.wordAt_setY (v : Word) (x : Word) : (s.setY v).wordAt x = s.wordAt x := rfl

/-! ### setIa -/

@[simp] theorem State.regs_setIa (v : Word) : (s.setIa v).regs = s.regs := rfl
@[simp] theorem State.pc_setIa (v : Word) : (s.setIa v).pc = s.pc := rfl
@[simp] theorem State.flags_setIa (v : Word) : (s.setIa v).flags = s.flags := rfl
@[simp] theorem State.y_setIa (v : Word) : (s.setIa v).y = s.y := rfl
@[simp] theorem State.ia_setIa (v : Word) : (s.setIa v).ia = v := rfl
@[simp] theorem State.asleep_setIa (v : Word) : (s.setIa v).asleep = s.asleep := rfl
@[simp] theorem State.mem_setIa (v : Word) : (s.setIa v).mem = s.mem := rfl
@[simp] theorem State.inputs_setIa (v : Word) : (s.setIa v).inputs = s.inputs := rfl
@[simp] theorem State.ioInputs_setIa (v : Word) : (s.setIa v).ioInputs = s.ioInputs := rfl
@[simp] theorem State.outputs_setIa (v : Word) : (s.setIa v).outputs = s.outputs := rfl
@[simp] theorem State.boundary_setIa (v : Word) : (s.setIa v).boundary = s.boundary := rfl
@[simp] theorem State.cfg_setIa (v : Word) : (s.setIa v).cfg = s.cfg := rfl
@[simp] theorem State.reg_setIa (v : Word) (q : Reg) : (s.setIa v).reg q = s.reg q := rfl
@[simp] theorem State.octet_setIa (v : Word) (x : Word) : (s.setIa v).octet x = s.octet x := rfl
@[simp] theorem State.kindAt_setIa (v : Word) (x : Word) : (s.setIa v).kindAt x = s.kindAt x := rfl
@[simp] theorem State.wordAt_setIa (v : Word) (x : Word) : (s.setIa v).wordAt x = s.wordAt x := rfl

/-! ### setAsleep -/

@[simp] theorem State.regs_setAsleep (v : Bool) : (s.setAsleep v).regs = s.regs := rfl
@[simp] theorem State.pc_setAsleep (v : Bool) : (s.setAsleep v).pc = s.pc := rfl
@[simp] theorem State.flags_setAsleep (v : Bool) : (s.setAsleep v).flags = s.flags := rfl
@[simp] theorem State.y_setAsleep (v : Bool) : (s.setAsleep v).y = s.y := rfl
@[simp] theorem State.ia_setAsleep (v : Bool) : (s.setAsleep v).ia = s.ia := rfl
@[simp] theorem State.asleep_setAsleep (v : Bool) : (s.setAsleep v).asleep = v := rfl
@[simp] theorem State.mem_setAsleep (v : Bool) : (s.setAsleep v).mem = s.mem := rfl
@[simp] theorem State.inputs_setAsleep (v : Bool) : (s.setAsleep v).inputs = s.inputs := rfl
@[simp] theorem State.ioInputs_setAsleep (v : Bool) : (s.setAsleep v).ioInputs = s.ioInputs := rfl
@[simp] theorem State.outputs_setAsleep (v : Bool) : (s.setAsleep v).outputs = s.outputs := rfl
@[simp] theorem State.boundary_setAsleep (v : Bool) : (s.setAsleep v).boundary = s.boundary := rfl
@[simp] theorem State.cfg_setAsleep (v : Bool) : (s.setAsleep v).cfg = s.cfg := rfl
@[simp] theorem State.reg_setAsleep (v : Bool) (q : Reg) : (s.setAsleep v).reg q = s.reg q := rfl
@[simp] theorem State.octet_setAsleep (v : Bool) (x : Word) : (s.setAsleep v).octet x = s.octet x := rfl
@[simp] theorem State.kindAt_setAsleep (v : Bool) (x : Word) : (s.setAsleep v).kindAt x = s.kindAt x := rfl
@[simp] theorem State.wordAt_setAsleep (v : Bool) (x : Word) : (s.setAsleep v).wordAt x = s.wordAt x := rfl

/-! ### setFlags -/

@[simp] theorem State.regs_setFlags (v : Flags) : (s.setFlags v).regs = s.regs := rfl
@[simp] theorem State.pc_setFlags (v : Flags) : (s.setFlags v).pc = s.pc := rfl
@[simp] theorem State.flags_setFlags (v : Flags) : (s.setFlags v).flags = v := rfl
@[simp] theorem State.y_setFlags (v : Flags) : (s.setFlags v).y = s.y := rfl
@[simp] theorem State.ia_setFlags (v : Flags) : (s.setFlags v).ia = s.ia := rfl
@[simp] theorem State.asleep_setFlags (v : Flags) : (s.setFlags v).asleep = s.asleep := rfl
@[simp] theorem State.mem_setFlags (v : Flags) : (s.setFlags v).mem = s.mem := rfl
@[simp] theorem State.inputs_setFlags (v : Flags) : (s.setFlags v).inputs = s.inputs := rfl
@[simp] theorem State.ioInputs_setFlags (v : Flags) : (s.setFlags v).ioInputs = s.ioInputs := rfl
@[simp] theorem State.outputs_setFlags (v : Flags) : (s.setFlags v).outputs = s.outputs := rfl
@[simp] theorem State.boundary_setFlags (v : Flags) : (s.setFlags v).boundary = s.boundary := rfl
@[simp] theorem State.cfg_setFlags (v : Flags) : (s.setFlags v).cfg = s.cfg := rfl
@[simp] theorem State.reg_setFlags (v : Flags) (q : Reg) : (s.setFlags v).reg q = s.reg q := rfl
@[simp] theorem State.octet_setFlags (v : Flags) (x : Word) : (s.setFlags v).octet x = s.octet x := rfl
@[simp] theorem State.kindAt_setFlags (v : Flags) (x : Word) : (s.setFlags v).kindAt x = s.kindAt x := rfl
@[simp] theorem State.wordAt_setFlags (v : Flags) (x : Word) : (s.setFlags v).wordAt x = s.wordAt x := rfl

/-! ### setCarry -/

@[simp] theorem State.regs_setCarry (v : Bool) : (s.setCarry v).regs = s.regs := rfl
@[simp] theorem State.pc_setCarry (v : Bool) : (s.setCarry v).pc = s.pc := rfl
@[simp] theorem State.flags_setCarry (v : Bool) : (s.setCarry v).flags = { s.flags with carry := v } := rfl
@[simp] theorem State.y_setCarry (v : Bool) : (s.setCarry v).y = s.y := rfl
@[simp] theorem State.ia_setCarry (v : Bool) : (s.setCarry v).ia = s.ia := rfl
@[simp] theorem State.asleep_setCarry (v : Bool) : (s.setCarry v).asleep = s.asleep := rfl
@[simp] theorem State.mem_setCarry (v : Bool) : (s.setCarry v).mem = s.mem := rfl
@[simp] theorem State.inputs_setCarry (v : Bool) : (s.setCarry v).inputs = s.inputs := rfl
@[simp] theorem State.ioInputs_setCarry (v : Bool) : (s.setCarry v).ioInputs = s.ioInputs := rfl
@[simp] theorem State.outputs_setCarry (v : Bool) : (s.setCarry v).outputs = s.outputs := rfl
@[simp] theorem State.boundary_setCarry (v : Bool) : (s.setCarry v).boundary = s.boundary := rfl
@[simp] theorem State.cfg_setCarry (v : Bool) : (s.setCarry v).cfg = s.cfg := rfl
@[simp] theorem State.reg_setCarry (v : Bool) (q : Reg) : (s.setCarry v).reg q = s.reg q := rfl
@[simp] theorem State.octet_setCarry (v : Bool) (x : Word) : (s.setCarry v).octet x = s.octet x := rfl
@[simp] theorem State.kindAt_setCarry (v : Bool) (x : Word) : (s.setCarry v).kindAt x = s.kindAt x := rfl
@[simp] theorem State.wordAt_setCarry (v : Bool) (x : Word) : (s.setCarry v).wordAt x = s.wordAt x := rfl

/-! ### setDivError -/

@[simp] theorem State.regs_setDivError (v : Bool) : (s.setDivError v).regs = s.regs := rfl
@[simp] theorem State.pc_setDivError (v : Bool) : (s.setDivError v).pc = s.pc := rfl
@[simp] theorem State.flags_setDivError (v : Bool) : (s.setDivError v).flags = { s.flags with divError := v } := rfl
@[simp] theorem State.y_setDivError (v : Bool) : (s.setDivError v).y = s.y := rfl
@[simp] theorem State.ia_setDivError (v : Bool) : (s.setDivError v).ia = s.ia := rfl
@[simp] theorem State.asleep_setDivError (v : Bool) : (s.setDivError v).asleep = s.asleep := rfl
@[simp] theorem State.mem_setDivError (v : Bool) : (s.setDivError v).mem = s.mem := rfl
@[simp] theorem State.inputs_setDivError (v : Bool) : (s.setDivError v).inputs = s.inputs := rfl
@[simp] theorem State.ioInputs_setDivError (v : Bool) : (s.setDivError v).ioInputs = s.ioInputs := rfl
@[simp] theorem State.outputs_setDivError (v : Bool) : (s.setDivError v).outputs = s.outputs := rfl
@[simp] theorem State.boundary_setDivError (v : Bool) : (s.setDivError v).boundary = s.boundary := rfl
@[simp] theorem State.cfg_setDivError (v : Bool) : (s.setDivError v).cfg = s.cfg := rfl
@[simp] theorem State.reg_setDivError (v : Bool) (q : Reg) : (s.setDivError v).reg q = s.reg q := rfl
@[simp] theorem State.octet_setDivError (v : Bool) (x : Word) : (s.setDivError v).octet x = s.octet x := rfl
@[simp] theorem State.kindAt_setDivError (v : Bool) (x : Word) : (s.setDivError v).kindAt x = s.kindAt x := rfl
@[simp] theorem State.wordAt_setDivError (v : Bool) (x : Word) : (s.setDivError v).wordAt x = s.wordAt x := rfl

/-! ### setInterrupt -/

@[simp] theorem State.regs_setInterrupt (v : Bool) : (s.setInterrupt v).regs = s.regs := rfl
@[simp] theorem State.pc_setInterrupt (v : Bool) : (s.setInterrupt v).pc = s.pc := rfl
@[simp] theorem State.flags_setInterrupt (v : Bool) : (s.setInterrupt v).flags = { s.flags with interrupt := v } := rfl
@[simp] theorem State.y_setInterrupt (v : Bool) : (s.setInterrupt v).y = s.y := rfl
@[simp] theorem State.ia_setInterrupt (v : Bool) : (s.setInterrupt v).ia = s.ia := rfl
@[simp] theorem State.asleep_setInterrupt (v : Bool) : (s.setInterrupt v).asleep = s.asleep := rfl
@[simp] theorem State.mem_setInterrupt (v : Bool) : (s.setInterrupt v).mem = s.mem := rfl
@[simp] theorem State.inputs_setInterrupt (v : Bool) : (s.setInterrupt v).inputs = s.inputs := rfl
@[simp] theorem State.ioInputs_setInterrupt (v : Bool) : (s.setInterrupt v).ioInputs = s.ioInputs := rfl
@[simp] theorem State.outputs_setInterrupt (v : Bool) : (s.setInterrupt v).outputs = s.outputs := rfl
@[simp] theorem State.boundary_setInterrupt (v : Bool) : (s.setInterrupt v).boundary = s.boundary := rfl
@[simp] theorem State.cfg_setInterrupt (v : Bool) : (s.setInterrupt v).cfg = s.cfg := rfl
@[simp] theorem State.reg_setInterrupt (v : Bool) (q : Reg) : (s.setInterrupt v).reg q = s.reg q := rfl
@[simp] theorem State.octet_setInterrupt (v : Bool) (x : Word) : (s.setInterrupt v).octet x = s.octet x := rfl
@[simp] theorem State.kindAt_setInterrupt (v : Bool) (x : Word) : (s.setInterrupt v).kindAt x = s.kindAt x := rfl
@[simp] theorem State.wordAt_setInterrupt (v : Bool) (x : Word) : (s.setInterrupt v).wordAt x = s.wordAt x := rfl

/-! ### setMem -/

@[simp] theorem State.regs_setMem (v : Memory) : (s.setMem v).regs = s.regs := rfl
@[simp] theorem State.pc_setMem (v : Memory) : (s.setMem v).pc = s.pc := rfl
@[simp] theorem State.flags_setMem (v : Memory) : (s.setMem v).flags = s.flags := rfl
@[simp] theorem State.y_setMem (v : Memory) : (s.setMem v).y = s.y := rfl
@[simp] theorem State.ia_setMem (v : Memory) : (s.setMem v).ia = s.ia := rfl
@[simp] theorem State.asleep_setMem (v : Memory) : (s.setMem v).asleep = s.asleep := rfl
@[simp] theorem State.mem_setMem (v : Memory) : (s.setMem v).mem = v := rfl
@[simp] theorem State.inputs_setMem (v : Memory) : (s.setMem v).inputs = s.inputs := rfl
@[simp] theorem State.ioInputs_setMem (v : Memory) : (s.setMem v).ioInputs = s.ioInputs := rfl
@[simp] theorem State.outputs_setMem (v : Memory) : (s.setMem v).outputs = s.outputs := rfl
@[simp] theorem State.boundary_setMem (v : Memory) : (s.setMem v).boundary = s.boundary := rfl
@[simp] theorem State.cfg_setMem (v : Memory) : (s.setMem v).cfg = s.cfg := rfl
@[simp] theorem State.reg_setMem (v : Memory) (q : Reg) : (s.setMem v).reg q = s.reg q := rfl
@[simp] theorem State.kindAt_setMem (v : Memory) (x : Word) : (s.setMem v).kindAt x = s.kindAt x := rfl
@[simp] theorem State.wordAt_setMem (v : Memory) (x : Word) : (s.setMem v).wordAt x = s.wordAt x := rfl

/-! ### tick -/

@[simp] theorem State.regs_tick : (s.tick).regs = s.regs := rfl
@[simp] theorem State.pc_tick : (s.tick).pc = s.pc := rfl
@[simp] theorem State.flags_tick : (s.tick).flags = s.flags := rfl
@[simp] theorem State.y_tick : (s.tick).y = s.y := rfl
@[simp] theorem State.ia_tick : (s.tick).ia = s.ia := rfl
@[simp] theorem State.asleep_tick : (s.tick).asleep = s.asleep := rfl
@[simp] theorem State.mem_tick : (s.tick).mem = s.mem := rfl
@[simp] theorem State.inputs_tick : (s.tick).inputs = s.inputs.tail := rfl
@[simp] theorem State.ioInputs_tick : (s.tick).ioInputs = s.ioInputs := rfl
@[simp] theorem State.outputs_tick : (s.tick).outputs = s.outputs := rfl
@[simp] theorem State.boundary_tick : (s.tick).boundary = s.boundary + 1 := rfl
@[simp] theorem State.cfg_tick : (s.tick).cfg = s.cfg := rfl
@[simp] theorem State.reg_tick (q : Reg) : (s.tick).reg q = s.reg q := rfl
@[simp] theorem State.octet_tick (x : Word) : (s.tick).octet x = s.octet x := rfl
@[simp] theorem State.kindAt_tick (x : Word) : (s.tick).kindAt x = s.kindAt x := rfl
@[simp] theorem State.wordAt_tick (x : Word) : (s.tick).wordAt x = s.wordAt x := rfl

/-! ### putOctet -/

/-- Putting an octet changes RAM and the outputs only. -/
theorem State.putOctet_eq (a : Word) (b : Byte) :
    s.putOctet a b = { s with mem := (s.putOctet a b).mem, outputs := (s.putOctet a b).outputs } := by
  unfold State.putOctet
  split <;> rfl

@[simp] theorem State.regs_putOctet (a : Word) (b : Byte) : (s.putOctet a b).regs = s.regs := by
  rw [State.putOctet_eq]
@[simp] theorem State.pc_putOctet (a : Word) (b : Byte) : (s.putOctet a b).pc = s.pc := by
  rw [State.putOctet_eq]
@[simp] theorem State.flags_putOctet (a : Word) (b : Byte) : (s.putOctet a b).flags = s.flags := by
  rw [State.putOctet_eq]
@[simp] theorem State.y_putOctet (a : Word) (b : Byte) : (s.putOctet a b).y = s.y := by
  rw [State.putOctet_eq]
@[simp] theorem State.ia_putOctet (a : Word) (b : Byte) : (s.putOctet a b).ia = s.ia := by
  rw [State.putOctet_eq]
@[simp] theorem State.asleep_putOctet (a : Word) (b : Byte) : (s.putOctet a b).asleep = s.asleep := by
  rw [State.putOctet_eq]
@[simp] theorem State.inputs_putOctet (a : Word) (b : Byte) : (s.putOctet a b).inputs = s.inputs := by
  rw [State.putOctet_eq]
@[simp] theorem State.ioInputs_putOctet (a : Word) (b : Byte) : (s.putOctet a b).ioInputs = s.ioInputs := by
  rw [State.putOctet_eq]
@[simp] theorem State.boundary_putOctet (a : Word) (b : Byte) : (s.putOctet a b).boundary = s.boundary := by
  rw [State.putOctet_eq]
@[simp] theorem State.cfg_putOctet (a : Word) (b : Byte) : (s.putOctet a b).cfg = s.cfg := by
  rw [State.putOctet_eq]
@[simp] theorem State.reg_putOctet (a : Word) (b : Byte) (q : Reg) : (s.putOctet a b).reg q = s.reg q := by
  rw [State.putOctet_eq]; rfl
@[simp] theorem State.kindAt_putOctet (a : Word) (b : Byte) (x : Word) : (s.putOctet a b).kindAt x = s.kindAt x := by
  rw [State.putOctet_eq]; rfl
@[simp] theorem State.wordAt_putOctet (a : Word) (b : Byte) (x : Word) : (s.putOctet a b).wordAt x = s.wordAt x := by
  rw [State.putOctet_eq]; rfl

end Sys2Proof.Machine
end

