-- ==== Sys2Proof/Laws/Memory.lean ====
section
/-! SUPPORT. RAM as a list of cells: what a write does to every read, and that it keeps the canonical form. -/

namespace Sys2Proof.Machine

/-- A cell put in its place, read back at any address, whatever the order of the list. -/
theorem cellsGet_cellsSet (a x : Nat) (b : Byte) (l : List Host.Cell) :
    cellsGet x (cellsSet a b l) = if x = a then some b else cellsGet x l := by
  induction l with
  | nil => simp [cellsSet, cellsGet, eq_comm]
  | cons c rest ih =>
    obtain ⟨y, v⟩ := c
    unfold cellsSet
    split
    · simp [cellsGet, eq_comm]
    · split
      · subst y
        by_cases hx : a = x
        · simp [cellsGet, hx]
        · have : ¬ x = a := fun e => hx e.symm
          simp [cellsGet, hx, this]
      · rename_i h1 h2
        simp only [cellsGet]
        rw [ih]
        by_cases hy : y = x
        · subst hy
          have : ¬ y = a := fun e => h2 e.symm
          simp [this]
        · simp [hy]

/-- A list of cells rises when its first address lies before all the others and the rest rises. -/
theorem cellsRise_cons (a : Nat) (v : Byte) (l : List Host.Cell) :
    cellsRise ((a, v) :: l) = true ↔ a < 0x10000 ∧ cellsRise l = true ∧ ∀ c ∈ l, a < c.1 := by
  induction l generalizing a v with
  | nil => simp [cellsRise]
  | cons c rest ih =>
    obtain ⟨b, w⟩ := c
    have hb := ih b w
    constructor
    · intro h
      simp only [cellsRise, Bool.and_eq_true, decide_eq_true_eq] at h
      obtain ⟨h1, h2⟩ := h
      obtain ⟨h3, h4, h5⟩ := hb.mp h2
      refine ⟨by omega, h2, ?_⟩
      intro c hc
      rcases List.mem_cons.mp hc with rfl | hc
      · exact h1
      · have := h5 c hc; omega
    · rintro ⟨_, h2, h3⟩
      simp only [cellsRise, Bool.and_eq_true, decide_eq_true_eq]
      exact ⟨h3 (b, w) (by simp), h2⟩

theorem cellsSet_mem (a : Nat) (b : Byte) (l : List Host.Cell) (c : Host.Cell) (h : c ∈ cellsSet a b l) :
    c.1 = a ∨ c ∈ l := by
  induction l with
  | nil => simp [cellsSet] at h; simp [h]
  | cons d rest ih =>
    obtain ⟨y, v⟩ := d
    unfold cellsSet at h
    split at h
    · rcases List.mem_cons.mp h with rfl | h
      · exact .inl rfl
      · exact .inr h
    · split at h
      · rcases List.mem_cons.mp h with rfl | h
        · exact .inl rfl
        · exact .inr (List.mem_cons_of_mem _ h)
      · rcases List.mem_cons.mp h with rfl | h
        · exact .inr (by simp)
        · rcases ih h with h | h
          · exact .inl h
          · exact .inr (List.mem_cons_of_mem _ h)

theorem cellsRise_cellsSet (a : Nat) (b : Byte) (l : List Host.Cell) (ha : a < 0x10000) (h : cellsRise l = true) :
    cellsRise (cellsSet a b l) = true := by
  induction l with
  | nil => simp [cellsSet, cellsRise, ha]
  | cons c rest ih =>
    obtain ⟨y, v⟩ := c
    obtain ⟨h1, h2, h3⟩ := (cellsRise_cons y v rest).mp h
    unfold cellsSet
    split
    · rename_i hlt
      refine (cellsRise_cons _ _ _).mpr ⟨ha, h, ?_⟩
      intro c hc
      rcases List.mem_cons.mp hc with rfl | hc
      · exact hlt
      · have := h3 c hc; omega
    · split
      · subst y
        exact (cellsRise_cons _ _ _).mpr ⟨ha, h2, h3⟩
      · refine (cellsRise_cons _ _ _).mpr ⟨h1, ih h2, ?_⟩
        intro c hc
        rcases cellsSet_mem a b rest c hc with e | hc
        · omega
        · exact h3 c hc

/-- A write, read back at any address. -/
theorem Memory.get?_set (m : Memory) (a x : Nat) (b : Byte) :
    (m.set a b).get? x = if x = a then some b else m.get? x :=
  cellsGet_cellsSet a x b m.cells

/-- A written octet of RAM, read back at any address of the space. -/
theorem State.octet_setMem_set (s : State) (a x : Word) (b : Byte) :
    (s.setMem (s.mem.set a.toNat b)).octet x = if x = a then b else s.octet x := by
  simp only [State.octet, State.mem_setMem, Memory.get?_set]
  by_cases h : x = a
  · simp [h]
  · have : ¬ x.toNat = a.toNat := fun e => h (BitVec.eq_of_toNat_eq e)
    simp [h, this]

/-- A write inside the address space keeps the canonical form. -/
theorem Memory.wf_set (m : Memory) (a : Nat) (b : Byte) (ha : a < 0x10000) (h : m.wf = true) : (m.set a b).wf = true :=
  cellsRise_cellsSet a b m.cells ha h

end Sys2Proof.Machine
end

