-- ==== Sys2Proof/Laws/Ops.lean ====
section
/-! SUPPORT. For each shared operation, once, everything it can do. -/

namespace Sys2Proof.Machine

/-! ### andThen -/

@[simp] theorem andThen_next {α β : Type} (a : α) (f : α → Result β) : andThen (.next a) f = f a := rfl
@[simp] theorem andThen_fault {α β : Type} (e : Fault) (f : α → Result β) : andThen (.fault e) f = .fault e := rfl
@[simp] theorem andThen_refused {α β : Type} (e : Refusal) (f : α → Result β) : andThen (.refused e) f = .refused e := rfl

/-- A chain of operations answers a value exactly when each of them does. -/
theorem andThen_eq_next {α β : Type} (x : Result α) (f : α → Result β) (b : β) :
    andThen x f = .next b ↔ ∃ a, x = .next a ∧ f a = .next b := by
  cases x <;> simp

/-! ### Reads -/

/-- Where an octet can be read, the read answers. -/
theorem readOctet_next_of_readable (s : State) (k : Nat) (a : Word) (h : s.readable a = true) :
    ∃ b, readOctet s k a = .next b := by
  unfold State.readable at h
  unfold readOctet
  cases hk : s.kindAt a <;> simp_all

/-- A read of plain memory gives what stands there. -/
theorem readOctet_plain (s : State) (k : Nat) (a : Word) (h : s.plain a = true) :
    readOctet s k a = .next (s.octet a) := by
  unfold State.plain at h
  unfold readOctet
  cases hk : s.kindAt a <;> simp_all

/-- Everything the read of an octet can answer. -/
theorem readOctet_eq_next (s : State) (k : Nat) (a : Word) (b : Byte) (h : readOctet s k a = .next b) :
    (s.plain a = true ∧ b = s.octet a) ∨ (s.kindAt a = .device ∧ b = Config.deviceOctet s.boundary k a.toNat) := by
  unfold readOctet at h
  unfold State.plain
  cases hk : s.kindAt a <;> simp_all

/-- Where a word can be read, the read answers. -/
theorem readWord_next_of_readable (s : State) (k : Nat) (a : Word) (h : s.wordReadable a = true) :
    ∃ v, readWord s k a = .next v := by
  simp only [State.wordReadable, Bool.and_eq_true] at h
  obtain ⟨⟨hw, h0⟩, h1⟩ := h
  obtain ⟨b0, hb0⟩ := readOctet_next_of_readable s k a h0
  obtain ⟨b1, hb1⟩ := readOctet_next_of_readable s k (a + 1#16) h1
  exact ⟨joinOctets s.cfg.byteOrder b0 b1, by simp [readWord, hw, hb0, hb1]⟩

/-- A read of a word of plain memory gives the word that stands there. -/
theorem readWord_plain (s : State) (k : Nat) (a : Word) (h : s.wordPlain a = true) :
    readWord s k a = .next (s.word a) := by
  simp only [State.wordPlain, Bool.and_eq_true] at h
  obtain ⟨⟨hw, h0⟩, h1⟩ := h
  simp [readWord, hw, readOctet_plain s k a h0, readOctet_plain s k (a + 1#16) h1, State.word]

/-- Plain memory can be read. -/
theorem wordReadable_of_wordPlain (s : State) (a : Word) (h : s.wordPlain a = true) : s.wordReadable a = true := by
  simp only [State.wordPlain, State.wordReadable, State.plain, State.readable, Bool.and_eq_true] at *
  refine ⟨⟨h.1.1, ?_⟩, ?_⟩
  · cases hk : s.kindAt a <;> simp_all
  · cases hk : s.kindAt (a + 1#16) <;> simp_all

/-! ### Writes -/

theorem mayWrite_of_writable (s : State) (a : Word) (h : s.writable a = true) : mayWrite s a = .next () := by
  unfold State.writable at h
  unfold mayWrite
  cases hk : s.kindAt a <;> simp_all

theorem mayWrite_eq_next (s : State) (a : Word) (h : mayWrite s a = .next ()) : s.writable a = true := by
  unfold mayWrite at h
  unfold State.writable
  cases hk : s.kindAt a <;> simp_all

/-- Putting an octet into RAM. -/
theorem putOctet_ram (s : State) (a : Word) (b : Byte) (h : s.isRam a = true) :
    s.putOctet a b = s.setMem (s.mem.set a.toNat b) := by
  unfold State.isRam at h
  unfold State.putOctet
  cases hk : s.kindAt a <;> simp_all

/-- Putting an octet to a device. -/
theorem putOctet_device (s : State) (a : Word) (b : Byte) (h : s.kindAt a = .device) :
    s.putOctet a b = { s with outputs := s.outputs ++ [.mem a b] } := by
  simp [State.putOctet, h]

/-- RAM after putting an octet, at any other address. -/
theorem octet_putOctet_of_ne (s : State) (a x : Word) (b : Byte) (h : x ≠ a) : (s.putOctet a b).octet x = s.octet x := by
  unfold State.putOctet
  split
  · rfl
  · simp [State.octet_setMem_set, h]

/-- RAM after putting an octet into RAM, at its address. -/
theorem octet_putOctet_self (s : State) (a : Word) (b : Byte) (h : s.isRam a = true) : (s.putOctet a b).octet a = b := by
  simp [putOctet_ram s a b h, State.octet_setMem_set]

theorem mem_wf_putOctet (s : State) (a : Word) (b : Byte) (h : s.mem.wf = true) : (s.putOctet a b).mem.wf = true := by
  unfold State.putOctet
  split
  · exact h
  · exact Memory.wf_set s.mem a.toNat b a.isLt h

/-- Everything a write of an octet can answer. -/
theorem writeOctet_eq_next (s t : State) (a : Word) (v : Byte) (h : writeOctet s a v = .next t) :
    s.writable a = true ∧ t = s.putOctet a v := by
  simp only [writeOctet, andThen_eq_next] at h
  obtain ⟨_, h1, h2⟩ := h
  exact ⟨mayWrite_eq_next s a h1, by simpa using h2.symm⟩

/-- Where an octet can be written, the write answers. -/
theorem writeOctet_of_writable (s : State) (a : Word) (v : Byte) (h : s.writable a = true) :
    writeOctet s a v = .next (s.putOctet a v) := by
  simp [writeOctet, mayWrite_of_writable s a h]

/-- Everything a write of a word can answer. -/
theorem writeWord_eq_next (s t : State) (a v : Word) (h : writeWord s a v = .next t) :
    s.wordWritable a = true ∧
      t = (s.putOctet a (splitWord s.cfg.byteOrder v).1).putOctet (a + 1#16) (splitWord s.cfg.byteOrder v).2 := by
  unfold writeWord at h
  split at h
  · rename_i hw
    simp only [andThen_eq_next] at h
    obtain ⟨_, h1, _, h2, h3⟩ := h
    refine ⟨?_, by simpa using h3.symm⟩
    simp [State.wordWritable, hw, mayWrite_eq_next s a h1, mayWrite_eq_next s (a + 1#16) h2]
  · cases h

/-- Where a word can be written, the write answers. -/
theorem writeWord_of_writable (s : State) (a v : Word) (h : s.wordWritable a = true) :
    writeWord s a v =
      .next ((s.putOctet a (splitWord s.cfg.byteOrder v).1).putOctet (a + 1#16) (splitWord s.cfg.byteOrder v).2) := by
  simp only [State.wordWritable, Bool.and_eq_true] at h
  obtain ⟨⟨hw, h0⟩, h1⟩ := h
  simp [writeWord, hw, mayWrite_of_writable s a h0, mayWrite_of_writable s (a + 1#16) h1]

/-! ### The stack -/

/-- Everything a push can answer. -/
theorem push_eq_next (s t : State) (v : Word) (h : push v s = .next t) :
    s.wordWritable (s.sp - 2#16) = true ∧
      t = ((s.setReg .sp (s.sp - 2#16)).putOctet (s.sp - 2#16) (splitWord s.cfg.byteOrder v).1).putOctet (s.sp - 2#16 + 1#16)
        (splitWord s.cfg.byteOrder v).2 :=
  writeWord_eq_next _ _ _ _ h

/-- Where the word below SP can be written, a push answers. -/
theorem push_of_writable (s : State) (v : Word) (h : s.wordWritable (s.sp - 2#16) = true) :
    push v s =
      .next (((s.setReg .sp (s.sp - 2#16)).putOctet (s.sp - 2#16) (splitWord s.cfg.byteOrder v).1).putOctet (s.sp - 2#16 + 1#16)
        (splitWord s.cfg.byteOrder v).2) :=
  writeWord_of_writable _ _ _ h

/-- Everything a pop can answer. -/
theorem pop_eq_next (s : State) (k : Nat) (p : Word × State) (h : pop k s = .next p) :
    readWord s k s.sp = .next p.1 ∧ p.2 = s.setReg .sp (s.sp + 2#16) := by
  simp only [pop, andThen_eq_next] at h
  obtain ⟨v, h1, h2⟩ := h
  have h2 : (v, s.setReg .sp (s.sp + 2#16)) = p := by simpa using h2
  subst h2
  exact ⟨h1, rfl⟩

/-! ### Interrupts -/

/-- Everything an interrupt entry can answer. -/
theorem interruptEntry_eq_next (s t : State) (m : Word) (h : interruptEntry m s = .next t) :
    ∃ s1 s2, push s.pc s = .next s1 ∧ push (s1.reg .r1) s1 = .next s2 ∧
      t = ((s2.setReg .r1 m).setPc s2.ia).setInterrupt true := by
  simp only [interruptEntry, andThen_eq_next] at h
  obtain ⟨s1, h1, s2, h2, h3⟩ := h
  exact ⟨s1, s2, h1, h2, by simpa using h3.symm⟩

/-- Everything a return from an interrupt can answer. -/
theorem returnFromInterrupt_eq_next (s t : State) (h : returnFromInterrupt s = .next t) :
    ∃ p q, pop 2 s = .next p ∧ pop 3 ((p.2.setReg .r1 p.1).setInterrupt false) = .next q ∧ t = q.2.setPc q.1 := by
  simp only [returnFromInterrupt, andThen_eq_next] at h
  obtain ⟨p, h1, q, h2, h3⟩ := h
  exact ⟨p, q, h1, h2, by simpa using h3.symm⟩

/-- Everything the division error can answer. -/
theorem divisionError_eq_next (s t : State) (h : divisionError s = .next t) :
    (canAccept s = true ∧ interruptEntry 0#16 (s.setDivError true) = .next t) ∨
      (canAccept s = false ∧ t = s.setDivError true) := by
  unfold divisionError at h
  split at h
  · exact .inl ⟨‹_›, h⟩
  · exact .inr ⟨by simp_all, by simpa using h.symm⟩

/-- Everything a software interrupt can answer. -/
theorem softwareInterrupt_eq_next (s t : State) (m : Word) (h : softwareInterrupt m s = .next t) :
    (canAccept s = true ∧ interruptEntry m s = .next t) ∨ (canAccept s = false ∧ t = s) := by
  unfold softwareInterrupt at h
  split at h
  · exact .inl ⟨‹_›, h⟩
  · exact .inr ⟨by simp_all, by simpa using h.symm⟩

/-! ### The skip chain -/

/-- Everything a conditional instruction can answer: the same state, or PC moved by the skip chain. -/
theorem conditional_eq_next (test : Bool) (s t : State) (h : conditional test s = .next t) :
    (test = true ∧ t = s) ∨ (test = false ∧ ∃ pc, skipFrom s 0x10000 s.pc = .next pc ∧ t = s.setPc pc) := by
  unfold conditional at h
  split at h
  · exact .inl ⟨‹_›, by simpa using h.symm⟩
  · simp only [skipChain, andThen_eq_next] at h
    obtain ⟨pc, h1, h2⟩ := h
    exact .inr ⟨by simp_all, pc, h1, by simpa using h2.symm⟩

/-- One round of the skip chain over a word that decodes to an instruction. -/
theorem skipFrom_succ (s : State) (n : Nat) (pc v : Word) (i : Instr) (hr : readWord s (n + 4) pc = .next v)
    (hd : decodeFirst s.cfg v = .ok i) (hi : isIllegal i = false) :
    skipFrom s (n + 1) pc =
      if isConditional i then skipFrom s n (pc + BitVec.ofNat 16 (2 * i.words))
      else .next (pc + BitVec.ofNat 16 (2 * i.words)) := by
  simp [skipFrom, hr, hd, hi]

/-! ### Fetch, wake and step -/

/-- Everything a fetch can answer: the instruction the decoder reads, and PC moved past its words. -/
theorem fetch_eq_next (s : State) (p : Instr × State) (h : fetch s = .next p) :
    ∃ w i, readWord s 0 s.pc = .next w ∧ decodeFirst s.cfg w = .ok i ∧
      ((i.words = 1 ∧ p = (i, s.setPc (s.pc + 2#16))) ∨
       (i.words ≠ 1 ∧ ∃ lit, readWord s 1 (s.pc + 2#16) = .next lit ∧ p = (i.withLit lit, s.setPc (s.pc + 2#16 + 2#16)))) := by
  simp only [fetch, andThen_eq_next] at h
  obtain ⟨w, hw, h⟩ := h
  split at h
  · cases h
  · rename_i i hd
    refine ⟨w, i, hw, hd, ?_⟩
    split at h
    · exact .inl ⟨‹_›, by simpa using h.symm⟩
    · simp only [andThen_eq_next] at h
      obtain ⟨lit, hl, h⟩ := h
      exact .inr ⟨‹_›, lit, hl, by simpa using h.symm⟩

/-- Everything the wake test can answer. -/
theorem wakeTest_eq_next (p : Pins) (s t : State) (h : wakeTest p s = .next t) :
    t = s ∨ t = s.setAsleep false ∨ (canAccept s = true ∧ p.intLow = true ∧
      interruptEntry p.dataBus (s.setAsleep false) = .next t) := by
  unfold wakeTest at h
  split at h
  · split at h
    · rename_i hc
      simp only [Bool.and_eq_true] at hc
      exact .inr (.inr ⟨hc.1, hc.2, h⟩)
    · exact .inl (by simpa using h.symm)
  · split at h
    · split at h
      · exact .inr (.inr ⟨‹_›, ‹_›, h⟩)
      · exact .inr (.inl (by simpa using h.symm))
    · exact .inl (by simpa using h.symm)

/-- Everything a step can answer: the wake test's state, an interrupt entry's, or an instruction's. -/
theorem step_eq_next (s t : State) (h : step s = .next t) :
    (s.asleep = true ∧ wakeTest s.pins s.tick = .next t) ∨
    (s.asleep = false ∧ canAccept s = true ∧ s.pins.intLow = true ∧ interruptEntry s.pins.dataBus s.tick = .next t) ∨
    (s.asleep = false ∧ ∃ p, fetch s.tick = .next p ∧ exec p.1 p.2 = .next t) := by
  unfold step stepWith at h
  split at h
  · exact .inl ⟨‹_›, h⟩
  · rename_i ha
    have ha : s.asleep = false := by simpa using ha
    split at h
    · rename_i hc
      simp only [Bool.and_eq_true] at hc
      exact .inr (.inl ⟨ha, hc.1, hc.2, h⟩)
    · exact .inr (.inr ⟨ha, (andThen_eq_next _ _ _).mp h⟩)

end Sys2Proof.Machine
end

