-- ==== Sys2Proof/Laws/Frames.lean ====
section
/-! SUPPORT. What the shared operations leave alone, in the terms of Safety: one lemma per operation. -/

namespace Sys2Proof.Machine

/-! ### Nothing changed -/

theorem SameRegs.refl (s : State) (l : List Reg) : SameRegs s s l := fun _ _ => rfl
theorem SameMem.refl (s : State) (l : List Word) : SameMem s s l := fun _ _ => rfl
theorem SameSpecial.refl (s : State) : SameSpecial s s := ⟨rfl, rfl, rfl⟩
theorem SameWorld.refl (s : State) : SameWorld s s := ⟨rfl, rfl, rfl, rfl⟩
theorem SameOther.refl (s : State) : SameOther s s := ⟨.refl s, rfl, .refl s⟩

/-! ### A register written -/

/-- What a write of a register does to the registers. -/
theorem regBecomes_setReg (s : State) (r : Reg) (v : Word) : RegBecomes s (s.setReg r v) r v := by
  refine ⟨?_, fun q hq => ?_⟩
  · by_cases h : r = .r0
    · subst h; rfl
    · simp [h]
  · simp only [List.mem_singleton] at hq
    simp [hq]

/-- A write of a register changes nothing else. -/
theorem onlyReg_setReg (s : State) (r : Reg) (v : Word) : OnlyReg s (s.setReg r v) r v :=
  ⟨regBecomes_setReg s r v, rfl, rfl, .refl s _, .refl s⟩

/-! ### Octets put -/

/-- What putting octets one after the other does to one octet of RAM. -/
theorem octet_putOctet (s : State) (a x : Word) (b : Byte) :
    (s.putOctet a b).octet x = if x = a ∧ s.kindAt a ≠ .device then b else s.octet x := by
  unfold State.putOctet
  cases hk : s.kindAt a <;> simp [State.octet_setMem_set]; rfl

/-- What putting an octet puts out. -/
theorem outputs_putOctet (s : State) (a : Word) (b : Byte) :
    (s.putOctet a b).outputs = if s.kindAt a = .device then s.outputs ++ [.mem a b] else s.outputs := by
  unfold State.putOctet
  cases hk : s.kindAt a <;> simp

theorem isRam_eq_of_writable (s : State) (a : Word) (h : s.writable a = true) :
    s.isRam a = decide (s.kindAt a ≠ .device) := by
  unfold State.writable at h
  unfold State.isRam
  cases hk : s.kindAt a <;> simp_all

theorem word_ne_succ (a : Word) : a ≠ a + 1#16 := by
  intro h
  have := congrArg BitVec.toNat h
  rw [BitVec.toNat_add] at this
  simp at this
  omega

/-- Putting the two octets of a word that can be written, as one store. -/
theorem stored_putWord (s : State) (a v : Word) (h : s.wordWritable a = true) :
    Stored s ((s.putOctet a (splitWord s.cfg.byteOrder v).1).putOctet (a + 1#16) (splitWord s.cfg.byteOrder v).2)
      (wordPuts s a v) := by
  simp only [State.wordWritable, Bool.and_eq_true] at h
  obtain ⟨⟨_, h0⟩, h1⟩ := h
  have e0 := isRam_eq_of_writable s a h0
  have e1 := isRam_eq_of_writable s (a + 1#16) h1
  have hne := word_ne_succ a
  refine ⟨?_, ?_, ?_⟩
  · intro p hp
    simp only [wordPuts, List.mem_cons, List.not_mem_nil, or_false] at hp
    rcases hp with rfl | rfl
    · simp [octet_putOctet, hne, e0]
    · simp [octet_putOctet, Ne.symm hne, e1]
  · intro x hx
    simp only [wordPuts, List.map_cons, List.map_nil, List.mem_cons, List.not_mem_nil, or_false, not_or] at hx
    simp [octet_putOctet, hx.1, hx.2]
  · simp only [outputs_putOctet, State.kindAt_putOctet, wordPuts]
    cases hk0 : s.kindAt a <;> cases hk1 : s.kindAt (a + 1#16) <;> simp [hk0, hk1]

/-- Putting an octet that can be written. -/
theorem stored_putOctet (s : State) (a : Word) (b : Byte) (h : s.writable a = true) :
    Stored s (s.putOctet a b) [(a, b)] := by
  have e := isRam_eq_of_writable s a h
  refine ⟨?_, ?_, ?_⟩
  · intro p hp
    simp only [List.mem_singleton] at hp
    subst hp
    simp [octet_putOctet, e]
  · intro x hx
    simp only [List.map_cons, List.map_nil, List.mem_singleton] at hx
    simp [octet_putOctet, hx]
  · simp only [outputs_putOctet]
    cases hk : s.kindAt a <;> simp [hk]

/-! ### The stack -/

/-- What a push of a word that can be written answers. -/
theorem push_frame (s : State) (v : Word) (h : s.wordWritable (s.reg .r15 - 2#16) = true) :
    ∃ t, push v s = .next t ∧ t.reg .r15 = s.reg .r15 - 2#16 ∧ SameRegs s t [.r15] ∧
      Stored s t (wordPuts s (s.reg .r15 - 2#16) v) ∧ t.pc = s.pc ∧ t.flags = s.flags ∧ SameSpecial s t ∧ SameWorld s t := by
  refine ⟨_, push_of_writable s v h, ?_, ?_, stored_putWord (s.setReg .sp (s.sp - 2#16)) _ v h, ?_⟩
  · simp only [State.reg_putOctet]
    exact State.reg_setReg_self s _ _ (by decide)
  · intro q hq
    simp only [State.reg_putOctet]
    exact State.reg_setReg_of_ne s _ q _ (by simpa using hq)
  · simp [SameSpecial, SameWorld]

/-- What a pop of a word that can be read answers. -/
theorem pop_frame (s : State) (k : Nat) (h : s.wordReadable (s.reg .r15) = true) :
    ∃ v, pop k s = .next (v, s.setReg .r15 (s.reg .r15 + 2#16)) ∧
      (s.wordPlain (s.reg .r15) = true → v = s.word (s.reg .r15)) := by
  obtain ⟨v, hv⟩ := readWord_next_of_readable s k _ h
  refine ⟨v, ?_, fun hp => ?_⟩
  · show andThen (readWord s k (s.reg .r15)) _ = _
    rw [hv]; rfl
  · rw [readWord_plain s k _ hp] at hv
    simpa using hv.symm

/-! ### Interrupt entry -/

/-- What an interrupt entry with room on the stack answers. -/
theorem interruptEntry_entered (s : State) (m : Word) (h : s.entryWritable = true) :
    ∃ t, interruptEntry m s = .next t ∧ Entered s t m := by
  simp only [State.entryWritable, Bool.and_eq_true] at h
  obtain ⟨hw1, hw2⟩ := h
  obtain ⟨s1, e1, r1, q1, m1, p1, f1, x1, g1⟩ := push_frame s s.pc hw1
  have hk : ∀ x, s1.kindAt x = s.kindAt x := fun x => by simp [State.kindAt, g1.2.2.2]
  have ha : ∀ x, s1.wordAt x = s.wordAt x := fun x => by simp [State.wordAt, g1.2.2.2]
  have h4 : s.reg .r15 - 2#16 - 2#16 = s.reg .r15 - 4#16 := by rw [BitVec.sub_sub]; rfl
  have hw2' : s1.wordWritable (s1.reg .r15 - 2#16) = true := by
    rw [r1, h4]; simpa [State.wordWritable, State.writable, hk, ha] using hw2
  obtain ⟨s2, e2, r2, q2, m2, p2, f2, x2, g2⟩ := push_frame s1 (s1.reg .r1) hw2'
  rw [r1, h4] at m2 r2
  have hr1 : s1.reg .r1 = s.reg .r1 := q1 .r1 (by decide)
  have hram : ∀ x, s1.isRam x = s.isRam x := fun x => by simp [State.isRam, hk]
  have hputs : ∀ a v, wordPuts s1 a v = wordPuts s a v := fun a v => by simp [wordPuts, g1.2.2.2]
  rw [hputs, hr1] at m2
  refine ⟨((s2.setReg .r1 m).setPc s2.ia).setInterrupt true, ?_, ?_⟩
  · simp [interruptEntry, e1, e2]
  · refine ⟨?_, ?_, ?_, ?_, ?_, ?_, ?_, ?_⟩
    · show (s2.setReg .r1 m).reg .r15 = _
      rw [State.reg_setReg_of_ne _ _ _ _ (by decide), r2]
    · show (s2.setReg .r1 m).reg .r1 = _
      exact State.reg_setReg_self _ _ _ (by decide)
    · intro q hq
      simp only [List.mem_cons, List.not_mem_nil, or_false, not_or] at hq
      show (s2.setReg .r1 m).reg q = _
      rw [State.reg_setReg_of_ne _ _ _ _ hq.1, q2 q (by simpa using hq.2), q1 q (by simpa using hq.2)]
    · show s2.ia = s.ia
      rw [x2.2.1, x1.2.1]
    · show { s2.flags with interrupt := true } = _
      rw [f2, f1]
    · obtain ⟨a1, b1, c1⟩ := m1
      obtain ⟨a2, b2, c2⟩ := m2
      refine ⟨?_, ?_, ?_⟩
      · intro p hp
        rcases List.mem_append.mp hp with hp | hp
        · have : p.1 ∉ (wordPuts s (s.reg .r15 - 4#16) (s.reg .r1)).map Prod.fst := by
            simp only [wordPuts, List.mem_cons, List.not_mem_nil, or_false, List.map_cons, List.map_nil, not_or] at hp ⊢
            rcases hp with rfl | rfl <;> constructor <;> bv_omega
          exact (b2 _ this).trans (a1 p hp)
        · have : p.1 ∉ (wordPuts s (s.reg .r15 - 2#16) s.pc).map Prod.fst := by
            simp only [wordPuts, List.mem_cons, List.not_mem_nil, or_false, List.map_cons, List.map_nil, not_or] at hp ⊢
            rcases hp with rfl | rfl <;> constructor <;> bv_omega
          refine (a2 p hp).trans ?_
          rw [hram, b1 _ this]
      · intro x hx
        simp only [List.map_append, List.mem_append, not_or] at hx
        exact (b2 x hx.2).trans (b1 x hx.1)
      · show s2.outputs = _
        rw [c2, c1]
        simp [hk]
    · exact ⟨by show s2.y = _; rw [x2.1, x1.1], by show s2.ia = _; rw [x2.2.1, x1.2.1],
        by show s2.asleep = _; rw [x2.2.2, x1.2.2]⟩
    · exact ⟨by show s2.inputs = _; rw [g2.1, g1.1], by show s2.ioInputs = _; rw [g2.2.1, g1.2.1],
        by show s2.boundary = _; rw [g2.2.2.1, g1.2.2.1], by show s2.cfg = _; rw [g2.2.2.2, g1.2.2.2]⟩

/-! ### A reset within a step -/

/-- Octets that an abandoned step could have written are lost; nothing else is. -/
theorem loseOctets_frame (l : List Word) (s : State) :
    (loseOctets s l).cfg = s.cfg ∧ (loseOctets s l).outputs = s.outputs ∧ (loseOctets s l).ioInputs = s.ioInputs ∧
    (loseOctets s l).boundary = s.boundary ∧ SameMem s (loseOctets s l) l := by
  induction l generalizing s with
  | nil => exact ⟨rfl, rfl, rfl, rfl, fun _ _ => rfl⟩
  | cons a l ih =>
    rw [loseOctets]
    split
    · obtain ⟨h1, h2, h3, h4, h5⟩ := ih (s.setMem (s.mem.set a.toNat (Config.abandonedOctet s.boundary a.toNat)))
      refine ⟨h1, h2, h3, h4, fun x hx => ?_⟩
      simp only [List.mem_cons, not_or] at hx
      rw [h5 x hx.2, State.octet_setMem_set, if_neg hx.1]
    · obtain ⟨h1, h2, h3, h4, h5⟩ := ih s
      exact ⟨h1, h2, h3, h4, fun x hx => h5 x (fun h => hx (List.mem_cons_of_mem _ h))⟩

end Sys2Proof.Machine
end

