-- ==== Sys2Proof/Laws/PerInstr.lean ====
section
/-! SUPPORT. The family `Length` of statements for every instruction: its encoding is as long as the instruction (R80, R92), and the
literal word that follows it changes neither its length nor its first word. -/

namespace Sys2Proof.Laws.Length

/-- The encoding of an instruction is as long as the instruction, whatever literal word follows its first word. -/
def Statement (i : Instr) : Prop :=
  (encode i).length = i.words ∧ ∀ v : Word, (i.withLit v).words = i.words ∧ (i.withLit v).firstWord = i.firstWord

/-- An instruction without a literal operand. -/
theorem of_none (i : Instr) (h : i.literal? = none) (hv : ∀ v, i.withLit v = i) : Statement i := by
  refine ⟨?_, fun v => ?_⟩
  · simp [encode, Instr.words, h]
  · simp [hv v]

/-- An instruction with a literal operand. -/
theorem of_some (i : Instr) (l : Lit) (h : i.literal? = some l) (hw : ∀ v, (i.withLit v).firstWord = i.firstWord) : Statement i := by
  refine ⟨?_, fun v => ⟨Instr.words_withLit i v, hw v⟩⟩
  cases l <;> simp [encode, Instr.words, h, Lit.words]

theorem loadL (ra : Reg) (l : Lit) (rc : Reg) : Statement (.loadL ra l rc) :=
  of_some _ l rfl fun v => by simp [Instr.withLit, Instr.firstWord]

theorem loadR (ra : Reg) (rb : Reg) (rc : Reg) : Statement (.loadR ra rb rc) := of_none _ rfl fun _ => rfl

theorem loadbL (ra : Reg) (l : Lit) (rc : Reg) : Statement (.loadbL ra l rc) :=
  of_some _ l rfl fun v => by simp [Instr.withLit, Instr.firstWord]

theorem loadbR (ra : Reg) (rb : Reg) (rc : Reg) : Statement (.loadbR ra rb rc) := of_none _ rfl fun _ => rfl

theorem storeL (ra : Reg) (l : Lit) (rc : Reg) : Statement (.storeL ra l rc) :=
  of_some _ l rfl fun v => by simp [Instr.withLit, Instr.firstWord]

theorem storeR (ra : Reg) (rb : Reg) (rc : Reg) : Statement (.storeR ra rb rc) := of_none _ rfl fun _ => rfl

theorem storebL (ra : Reg) (l : Lit) (rc : Reg) : Statement (.storebL ra l rc) :=
  of_some _ l rfl fun v => by simp [Instr.withLit, Instr.firstWord]

theorem storebR (ra : Reg) (rb : Reg) (rc : Reg) : Statement (.storebR ra rb rc) := of_none _ rfl fun _ => rfl

theorem addR (rb : Reg) (rc : Reg) : Statement (.addR rb rc) := of_none _ rfl fun _ => rfl

theorem addL (l : Lit) (rc : Reg) : Statement (.addL l rc) :=
  of_some _ l rfl fun v => by simp [Instr.withLit, Instr.firstWord]

theorem subR (rb : Reg) (rc : Reg) : Statement (.subR rb rc) := of_none _ rfl fun _ => rfl

theorem subL (l : Lit) (rc : Reg) : Statement (.subL l rc) :=
  of_some _ l rfl fun v => by simp [Instr.withLit, Instr.firstWord]

theorem addcR (rb : Reg) (rc : Reg) : Statement (.addcR rb rc) := of_none _ rfl fun _ => rfl

theorem subcR (rb : Reg) (rc : Reg) : Statement (.subcR rb rc) := of_none _ rfl fun _ => rfl

theorem subcL (l : Lit) (rc : Reg) : Statement (.subcL l rc) :=
  of_some _ l rfl fun v => by simp [Instr.withLit, Instr.firstWord]

theorem andR (rb : Reg) (rc : Reg) : Statement (.andR rb rc) := of_none _ rfl fun _ => rfl

theorem orR (rb : Reg) (rc : Reg) : Statement (.orR rb rc) := of_none _ rfl fun _ => rfl

theorem xorR (rb : Reg) (rc : Reg) : Statement (.xorR rb rc) := of_none _ rfl fun _ => rfl

theorem sllR (rb : Reg) (rc : Reg) : Statement (.sllR rb rc) := of_none _ rfl fun _ => rfl

theorem sllL (l : Lit) (rc : Reg) : Statement (.sllL l rc) :=
  of_some _ l rfl fun v => by simp [Instr.withLit, Instr.firstWord]

theorem srlR (rb : Reg) (rc : Reg) : Statement (.srlR rb rc) := of_none _ rfl fun _ => rfl

theorem srlL (l : Lit) (rc : Reg) : Statement (.srlL l rc) :=
  of_some _ l rfl fun v => by simp [Instr.withLit, Instr.firstWord]

theorem sraR (rb : Reg) (rc : Reg) : Statement (.sraR rb rc) := of_none _ rfl fun _ => rfl

theorem sraL (l : Lit) (rc : Reg) : Statement (.sraL l rc) :=
  of_some _ l rfl fun v => by simp [Instr.withLit, Instr.firstWord]

theorem rotlR (rb : Reg) (rc : Reg) : Statement (.rotlR rb rc) := of_none _ rfl fun _ => rfl

theorem rotlL (l : Lit) (rc : Reg) : Statement (.rotlL l rc) :=
  of_some _ l rfl fun v => by simp [Instr.withLit, Instr.firstWord]

theorem rotrR (rb : Reg) (rc : Reg) : Statement (.rotrR rb rc) := of_none _ rfl fun _ => rfl

theorem rotrL (l : Lit) (rc : Reg) : Statement (.rotrL l rc) :=
  of_some _ l rfl fun v => by simp [Instr.withLit, Instr.firstWord]

theorem mulR (rb : Reg) (rc : Reg) : Statement (.mulR rb rc) := of_none _ rfl fun _ => rfl

theorem mulL (l : Lit) (rc : Reg) : Statement (.mulL l rc) :=
  of_some _ l rfl fun v => by simp [Instr.withLit, Instr.firstWord]

theorem divR (rb : Reg) (rc : Reg) : Statement (.divR rb rc) := of_none _ rfl fun _ => rfl

theorem divL (l : Lit) (rc : Reg) : Statement (.divL l rc) :=
  of_some _ l rfl fun v => by simp [Instr.withLit, Instr.firstWord]

theorem swp (rb : Reg) (rc : Reg) : Statement (.swp rb rc) := of_none _ rfl fun _ => rfl

theorem cpy (rb : Reg) (rc : Reg) : Statement (.cpy rb rc) := of_none _ rfl fun _ => rfl

theorem setL (l : Lit) (rc : Reg) : Statement (.setL l rc) :=
  of_some _ l rfl fun v => by simp [Instr.withLit, Instr.firstWord]

theorem beqR (rb : Reg) (rc : Reg) : Statement (.beqR rb rc) := of_none _ rfl fun _ => rfl

theorem beqL (l : Lit) (rc : Reg) : Statement (.beqL l rc) :=
  of_some _ l rfl fun v => by simp [Instr.withLit, Instr.firstWord]

theorem bneqR (rb : Reg) (rc : Reg) : Statement (.bneqR rb rc) := of_none _ rfl fun _ => rfl

theorem bneqL (l : Lit) (rc : Reg) : Statement (.bneqL l rc) :=
  of_some _ l rfl fun v => by simp [Instr.withLit, Instr.firstWord]

theorem bgR (rb : Reg) (rc : Reg) : Statement (.bgR rb rc) := of_none _ rfl fun _ => rfl

theorem bgL (l : Lit) (rc : Reg) : Statement (.bgL l rc) :=
  of_some _ l rfl fun v => by simp [Instr.withLit, Instr.firstWord]

theorem bgeR (rb : Reg) (rc : Reg) : Statement (.bgeR rb rc) := of_none _ rfl fun _ => rfl

theorem bgeL (l : Lit) (rc : Reg) : Statement (.bgeL l rc) :=
  of_some _ l rfl fun v => by simp [Instr.withLit, Instr.firstWord]

theorem bugR (rb : Reg) (rc : Reg) : Statement (.bugR rb rc) := of_none _ rfl fun _ => rfl

theorem bugL (l : Lit) (rc : Reg) : Statement (.bugL l rc) :=
  of_some _ l rfl fun v => by simp [Instr.withLit, Instr.firstWord]

theorem bugeR (rb : Reg) (rc : Reg) : Statement (.bugeR rb rc) := of_none _ rfl fun _ => rfl

theorem bugeL (l : Lit) (rc : Reg) : Statement (.bugeL l rc) :=
  of_some _ l rfl fun v => by simp [Instr.withLit, Instr.firstWord]

theorem bbits (rb : Reg) (rc : Reg) : Statement (.bbits rb rc) := of_none _ rfl fun _ => rfl

theorem bclear (rb : Reg) (rc : Reg) : Statement (.bclear rb rc) := of_none _ rfl fun _ => rfl

theorem inpR (rb : Reg) (rc : Reg) : Statement (.inpR rb rc) := of_none _ rfl fun _ => rfl

theorem inpL (l : Lit) (rc : Reg) : Statement (.inpL l rc) :=
  of_some _ l rfl fun v => by simp [Instr.withLit, Instr.firstWord]

theorem outR (rb : Reg) (rc : Reg) : Statement (.outR rb rc) := of_none _ rfl fun _ => rfl

theorem outL (l : Lit) (rc : Reg) : Statement (.outL l rc) :=
  of_some _ l rfl fun v => by simp [Instr.withLit, Instr.firstWord]

theorem jmpAbs (l : Lit) (rc : Reg) : Statement (.jmpAbs l rc) :=
  of_some _ l rfl fun v => by simp [Instr.withLit, Instr.firstWord]

theorem callAbs (l : Lit) (rc : Reg) : Statement (.callAbs l rc) :=
  of_some _ l rfl fun v => by simp [Instr.withLit, Instr.firstWord]

theorem notR (rc : Reg) : Statement (.notR rc) := of_none _ rfl fun _ => rfl

theorem negR (rc : Reg) : Statement (.negR rc) := of_none _ rfl fun _ => rfl

theorem xchg (rc : Reg) : Statement (.xchg rc) := of_none _ rfl fun _ => rfl

theorem sxtbd (rc : Reg) : Statement (.sxtbd rc) := of_none _ rfl fun _ => rfl

theorem push (rc : Reg) : Statement (.push rc) := of_none _ rfl fun _ => rfl

theorem pop (rc : Reg) : Statement (.pop rc) := of_none _ rfl fun _ => rfl

theorem getpc (rc : Reg) : Statement (.getpc rc) := of_none _ rfl fun _ => rfl

theorem getflags (rc : Reg) : Statement (.getflags rc) := of_none _ rfl fun _ => rfl

theorem setyR (rc : Reg) : Statement (.setyR rc) := of_none _ rfl fun _ => rfl

theorem setyL (l : Lit) : Statement (.setyL l) :=
  of_some _ l rfl fun v => by simp [Instr.withLit, Instr.firstWord]

theorem gety (rc : Reg) : Statement (.gety rc) := of_none _ rfl fun _ => rfl

theorem intR (rc : Reg) : Statement (.intR rc) := of_none _ rfl fun _ => rfl

theorem intL (l : Lit) : Statement (.intL l) :=
  of_some _ l rfl fun v => by simp [Instr.withLit, Instr.firstWord]

theorem getia (rc : Reg) : Statement (.getia rc) := of_none _ rfl fun _ => rfl

theorem setiaR (rc : Reg) : Statement (.setiaR rc) := of_none _ rfl fun _ => rfl

theorem setiaL (l : Lit) : Statement (.setiaL l) :=
  of_some _ l rfl fun v => by simp [Instr.withLit, Instr.firstWord]

theorem reserved (x : BitVec 12) : Statement (.reserved x) := of_none _ rfl fun _ => rfl

theorem jmpRel (d : BitVec 9) : Statement (.jmpRel d) := of_none _ rfl fun _ => rfl

theorem callRel (d : BitVec 9) : Statement (.callRel d) := of_none _ rfl fun _ => rfl

theorem nop : Statement (.nop) := of_none _ rfl fun _ => rfl

theorem sleep : Statement (.sleep) := of_none _ rfl fun _ => rfl

theorem ret : Statement (.ret) := of_none _ rfl fun _ => rfl

theorem rfi : Statement (.rfi) := of_none _ rfl fun _ => rfl

theorem clrdiverr : Statement (.clrdiverr) := of_none _ rfl fun _ => rfl

theorem bovf : Statement (.bovf) := of_none _ rfl fun _ => rfl

theorem bocf : Statement (.bocf) := of_none _ rfl fun _ => rfl

theorem unassigned (w : Word) : Statement (.unassigned w) := of_none _ rfl fun _ => rfl

end Sys2Proof.Laws.Length
end

