-- ==== Sys2Proof/Laws/Stops.lean ====
section
/-! SUPPORT. What the shared operations refuse, one lemma per operation, and the skip chain over a run of conditionals. -/

namespace Sys2Proof.Machine

/-! ### Accesses -/

/-- A read of a word that is stopped. -/
theorem readWord_stops (s : State) (k : Nat) (a : Word) (r : Refusal) (h : ReadStops s a r) : readWord s k a = .refused r := by
  rcases h with ⟨h, rfl⟩ | ⟨h, h2, rfl⟩ | ⟨h, h2, h3, rfl⟩
  · simp [readWord, h]
  · simp [readWord, h, readOctet, h2]
  · obtain ⟨b, hb⟩ := readOctet_next_of_readable s k a (by simp [State.readable, h2])
    simp only [readWord, h, if_true, hb, andThen_next]
    simp [readOctet, h3]

/-- A write of an octet that is stopped. -/
theorem mayWrite_stops (s : State) (a : Word) (r : Refusal) (h : OctetStops s a r) : mayWrite s a = .refused r := by
  rcases h with ⟨h, rfl⟩ | ⟨h, rfl⟩ <;> simp [mayWrite, h]

/-- A write of a word that is stopped. -/
theorem writeWord_stops (s : State) (a v : Word) (r : Refusal) (h : WriteStops s a r) : writeWord s a v = .refused r := by
  rcases h with ⟨h, rfl⟩ | ⟨h, h2⟩ | ⟨h, h2, h3⟩
  · simp [writeWord, h]
  · simp [writeWord, h, mayWrite_stops _ _ _ h2]
  · simp [writeWord, h, mayWrite_of_writable _ _ h2, mayWrite_stops _ _ _ h3]

/-- What stops a write is the same in states with the same parameters. -/
theorem WriteStops.congr (s t : State) (a : Word) (r : Refusal) (hc : t.cfg = s.cfg) (h : WriteStops s a r) : WriteStops t a r := by
  simpa only [WriteStops, OctetStops, State.writable, State.kindAt, State.wordAt, hc] using h

/-! ### Stack and interrupts -/

/-- A push that is stopped. -/
theorem push_stops (s : State) (v : Word) (r : Refusal) (h : WriteStops s (s.reg .r15 - 2#16) r) : push v s = .refused r :=
  writeWord_stops (s.setReg .sp (s.sp - 2#16)) (s.sp - 2#16) v r h

/-- A pop that is stopped. -/
theorem pop_stops (s : State) (k : Nat) (r : Refusal) (h : ReadStops s (s.reg .r15) r) : pop k s = .refused r := by
  have := readWord_stops s k s.sp r h
  simp [pop, this]

/-- An interrupt entry that is stopped, at its first or at its second push. -/
theorem interruptEntry_stops (s : State) (m : Word) (r : Refusal) (h : EntryStops s r) : interruptEntry m s = .refused r := by
  rcases h with h | ⟨hw, h⟩
  · rw [interruptEntry, push_stops s _ r h, andThen_refused]
  · obtain ⟨t, e, r15, -, -, -, -, -, g⟩ := push_frame s s.pc hw
    have h4 : t.reg .r15 - 2#16 = s.reg .r15 - 4#16 := by rw [r15, BitVec.sub_sub]; rfl
    rw [interruptEntry, e, andThen_next, push_stops t _ r (by rw [h4]; exact h.congr s t _ r g.2.2.2), andThen_refused]

/-! ### The skip chain -/

/-- The skip chain passes a run of conditionals, one round for each. -/
theorem skipFrom_over (s : State) (n : Nat) (cs : List Instr) (pc q : Word) (h : SkipsOver s cs pc q) :
    skipFrom s (n + cs.length) pc = skipFrom s n q := by
  induction cs generalizing pc with
  | nil => rw [show q = pc from h]; rfl
  | cons c cs ih =>
    obtain ⟨h1, h2, h3, h4⟩ := h
    have hi : isIllegal c = false := by cases c <;> first | rfl | cases h3
    rw [List.length_cons, ← Nat.add_assoc, skipFrom_succ s _ pc _ c (readWord_plain s _ _ h1) h2 hi, if_pos h3]
    exact ih _ h4

end Sys2Proof.Machine
end

