-- ==== Sys2Proof/Tests/Slice0.lean ====
section
/-! SUPPORT. The tests: ill-formed terms, words written out from the encoding tables of the spec, the examples of the rules as
single steps, and for every obligation with hypotheses a witness that meets them. -/

namespace Sys2Proof.Tests

open Sys2Proof.Machine

/-! ### Helpers -/

/-- The parameters with `CLASH_POLICY = later_listed`. -/
def laterListed : Config := { defaultConfig with clash := .laterListed }

/-- Parameters with a device at 0x4000, ROM at 0x8000 and an empty region at 0xC000, 0x1000 octets each. -/
def mapped : Config :=
  { defaultConfig with
    memMap := [⟨0x4000, 0x1000, .device⟩, ⟨0x8000, 0x1000, .rom⟩, ⟨0xC000, 0x1000, .empty⟩] }

/-- Parameters under which no word can be accessed at an odd address. -/
def aligned : Config := { defaultConfig with misaligned := .refuse }

/-- An `EXTRA_OPCODES` with an opcode value of format 1P, one of format 1L and one of format 0P. -/
def everyFormat : List ExtraEntry :=
  [⟨.oneParam 0x21A#12, .inpL⟩, ⟨.longLit 0#3, .setyR⟩, ⟨.noParam 0x0A12#16, .bbits⟩]

/-- Whether a first word and the word after it decode to an instruction. -/
def reads (c : Config) (w lit : Word) (i : Instr) : Bool :=
  match decode c w lit with
  | .ok j => j == i
  | .error _ => false

/-- The state after reset with some registers set. -/
def regs (l : List (Reg × Word)) : State := l.foldl (fun s p => s.setReg p.1 p.2) State.reset

/-- A state whose next step runs an instruction at an address. -/
def placed (s : State) (pc w lit : Word) : State := placeInstr (s.setPc pc) w lit

/-- Whether an outcome is a next state with a property. -/
def ends (x : Result State) (p : State → Bool) : Bool :=
  match x with
  | .next t => p t
  | .fault _ => false
  | .refused _ => false

/-- The four flags as OF, CF, DE, IF. -/
def flagsOf (s : State) : Bool × Bool × Bool × Bool :=
  (s.flags.overflow, s.flags.carry, s.flags.divError, s.flags.interrupt)

/-! ### WellFormed: each check refuses an ill-formed term -/

theorem test_wf_short_literal : (Instr.addL (.short 15#4) .r1).wf = false ∧ (Instr.addL (.short 14#4) .r1).wf = true := by
  decide
theorem test_wf_field_of_one_parameter : (Instr.setyL (.short 15#4)).wf = false ∧ (Instr.setyL (.word 15#16)).wf = true := by
  decide
theorem test_wf_assigned_word : (Instr.unassigned 0x4021#16).wf = false ∧ (Instr.unassigned 0x5C21#16).wf = true := by decide
theorem test_wf_reserved_is_not_unassigned : (Instr.unassigned 0x3000#16).wf = false := by decide
/-- An `EXTRA_OPCODES` entry must name an opcode without a line. -/
theorem test_valid_extra_assigned : ({ defaultConfig with extra := [⟨.twoParam 0x5B#8, .bbits⟩] } : Config).valid = false := by decide
/-- An `EXTRA_OPCODES` entry must name a shadowed form. -/
theorem test_valid_extra_not_shadowed : ({ defaultConfig with extra := [⟨.twoParam 0x5C#8, .mulR⟩] } : Config).valid = false := by decide
/-- `EXTRA_OPCODES` is a map: no opcode twice. -/
theorem test_valid_extra_twice :
    ({ defaultConfig with extra := [⟨.oneParam 0x210#12, .setyR⟩, ⟨.oneParam 0x210#12, .setyR⟩] } : Config).valid = false := by decide
theorem test_valid_extra_format : ({ defaultConfig with extra := [⟨.oneParam 0x300#12, .setyR⟩] } : Config).valid = false := by decide

/-- Under `refuse` nothing is shadowed. -/
theorem test_valid_extra_refuse : ({ defaultConfig with clash := .refuse, extra := everyFormat } : Config).valid = false := by decide

/-! ### Decoding: words written out from 30_encoding.md section 4 (0x52 to 0x57 and 0x207 also under `later_listed`) -/

theorem test_decode_ram :
    reads defaultConfig 0b1000001001010011#16 0x0000#16 (.loadL .r2 (.short 5#4) .r3) = true ∧
    reads defaultConfig 0b1001001010110011#16 0x0000#16 (.loadR .r2 .r11 .r3) = true ∧
    reads defaultConfig 0b1010001001010011#16 0x0000#16 (.loadbL .r2 (.short 5#4) .r3) = true ∧
    reads defaultConfig 0b1011001010110011#16 0x0000#16 (.loadbR .r2 .r11 .r3) = true ∧
    reads defaultConfig 0b1100001001010011#16 0x0000#16 (.storeL .r2 (.short 5#4) .r3) = true ∧
    reads defaultConfig 0b1101001010110011#16 0x0000#16 (.storeR .r2 .r11 .r3) = true ∧
    reads defaultConfig 0b1110001001010011#16 0x0000#16 (.storebL .r2 (.short 5#4) .r3) = true ∧
    reads defaultConfig 0b1111001010110011#16 0x0000#16 (.storebR .r2 .r11 .r3) = true := by decide

theorem test_decode_alu :
    reads defaultConfig 0b0100000010110011#16 0x0000#16 (.addR .r11 .r3) = true ∧
    reads defaultConfig 0b0100000111110011#16 0xBEEF#16 (.addL (.word 0xBEEF#16) .r3) = true ∧
    reads defaultConfig 0b0100001010110011#16 0x0000#16 (.subR .r11 .r3) = true ∧
    reads defaultConfig 0b0100001111110011#16 0xBEEF#16 (.subL (.word 0xBEEF#16) .r3) = true ∧
    reads defaultConfig 0b0100010010110011#16 0x0000#16 (.addcR .r11 .r3) = true ∧
    reads defaultConfig 0b0100010110110011#16 0x0000#16 (.subcR .r11 .r3) = true ∧
    reads defaultConfig 0b0100011001010011#16 0x0000#16 (.subcL (.short 5#4) .r3) = true ∧
    reads defaultConfig 0b0100011110110011#16 0x0000#16 (.andR .r11 .r3) = true ∧
    reads defaultConfig 0b0100100010110011#16 0x0000#16 (.orR .r11 .r3) = true ∧
    reads defaultConfig 0b0100100110110011#16 0x0000#16 (.xorR .r11 .r3) = true ∧
    reads defaultConfig 0b0010000000000011#16 0x0000#16 (.notR .r3) = true ∧
    reads defaultConfig 0b0010000000010011#16 0x0000#16 (.negR .r3) = true := by decide

theorem test_decode_shift :
    reads defaultConfig 0b0100101010110011#16 0x0000#16 (.sllR .r11 .r3) = true ∧
    reads defaultConfig 0b0100101111110011#16 0xBEEF#16 (.sllL (.word 0xBEEF#16) .r3) = true ∧
    reads defaultConfig 0b0100110010110011#16 0x0000#16 (.srlR .r11 .r3) = true ∧
    reads defaultConfig 0b0100110111110011#16 0xBEEF#16 (.srlL (.word 0xBEEF#16) .r3) = true ∧
    reads defaultConfig 0b0100111010110011#16 0x0000#16 (.sraR .r11 .r3) = true ∧
    reads defaultConfig 0b0100111111110011#16 0xBEEF#16 (.sraL (.word 0xBEEF#16) .r3) = true ∧
    reads defaultConfig 0b0101000010110011#16 0x0000#16 (.rotlR .r11 .r3) = true ∧
    reads defaultConfig 0b0101000111110011#16 0xBEEF#16 (.rotlL (.word 0xBEEF#16) .r3) = true ∧
    reads defaultConfig 0b0101001010110011#16 0x0000#16 (.rotrR .r11 .r3) = true ∧
    reads defaultConfig 0b0101001111110011#16 0xBEEF#16 (.rotrL (.word 0xBEEF#16) .r3) = true := by decide

theorem test_decode_muldiv :
    reads defaultConfig 0b0101010010110011#16 0x0000#16 (.mulR .r11 .r3) = true ∧
    reads defaultConfig 0b0101010111110011#16 0xBEEF#16 (.mulL (.word 0xBEEF#16) .r3) = true ∧
    reads defaultConfig 0b0101011010110011#16 0x0000#16 (.divR .r11 .r3) = true ∧
    reads defaultConfig 0b0101011111110011#16 0xBEEF#16 (.divL (.word 0xBEEF#16) .r3) = true := by decide

theorem test_decode_register :
    reads defaultConfig 0b0101100010110011#16 0x0000#16 (.swp .r11 .r3) = true ∧
    reads defaultConfig 0b0101100110110011#16 0x0000#16 (.cpy .r11 .r3) = true ∧
    reads defaultConfig 0b0101101001010011#16 0x0000#16 (.setL (.short 5#4) .r3) = true ∧
    reads defaultConfig 0b0010000000100011#16 0x0000#16 (.xchg .r3) = true ∧
    reads defaultConfig 0b0010000000110011#16 0x0000#16 (.sxtbd .r3) = true := by decide

theorem test_decode_branch :
    reads defaultConfig 0b0101101110110011#16 0x0000#16 (.beqR .r11 .r3) = true ∧
    reads defaultConfig 0b0101110101010011#16 0x0000#16 (.beqL (.short 5#4) .r3) = true ∧
    reads defaultConfig 0b0101111110110011#16 0x0000#16 (.bneqR .r11 .r3) = true ∧
    reads defaultConfig 0b0110000001010011#16 0x0000#16 (.bneqL (.short 5#4) .r3) = true ∧
    reads defaultConfig 0b0110000110110011#16 0x0000#16 (.bgR .r11 .r3) = true ∧
    reads defaultConfig 0b0110001001010011#16 0x0000#16 (.bgL (.short 5#4) .r3) = true ∧
    reads defaultConfig 0b0110001110110011#16 0x0000#16 (.bgeR .r11 .r3) = true ∧
    reads defaultConfig 0b0110010001010011#16 0x0000#16 (.bgeL (.short 5#4) .r3) = true ∧
    reads defaultConfig 0b0110010110110011#16 0x0000#16 (.bugR .r11 .r3) = true ∧
    reads defaultConfig 0b0110011001010011#16 0x0000#16 (.bugL (.short 5#4) .r3) = true ∧
    reads defaultConfig 0b0110011110110011#16 0x0000#16 (.bugeR .r11 .r3) = true ∧
    reads defaultConfig 0b0110100001010011#16 0x0000#16 (.bugeL (.short 5#4) .r3) = true ∧
    reads laterListed 0b0101001010110011#16 0x0000#16 (.bbits .r11 .r3) = true ∧
    reads laterListed 0b0101001110110011#16 0x0000#16 (.bclear .r11 .r3) = true ∧
    reads defaultConfig 0b0000000000001000#16 0x0000#16 (.bovf) = true ∧
    reads defaultConfig 0b0000000000001001#16 0x0000#16 (.bocf) = true := by decide

theorem test_decode_io :
    reads laterListed 0b0101010010110011#16 0x0000#16 (.inpR .r11 .r3) = true ∧
    reads laterListed 0b0101010101010011#16 0x0000#16 (.inpL (.short 5#4) .r3) = true ∧
    reads laterListed 0b0101011010110011#16 0x0000#16 (.outR .r11 .r3) = true ∧
    reads laterListed 0b0101011101010011#16 0x0000#16 (.outL (.short 5#4) .r3) = true := by decide

theorem test_decode_jump :
    reads defaultConfig 0b0111111011110011#16 0xBEEF#16 (.jmpAbs (.word 0xBEEF#16) .r3) = true ∧
    reads defaultConfig 0b0111111101010011#16 0x0000#16 (.callAbs (.short 5#4) .r3) = true ∧
    reads defaultConfig 0b0001001111111110#16 0x0000#16 (.jmpRel (BitVec.ofInt 9 (-2))) = true ∧
    reads defaultConfig 0b0001010111111110#16 0x0000#16 (.callRel (BitVec.ofInt 9 (-2))) = true ∧
    reads defaultConfig 0b0000000000000010#16 0x0000#16 (.ret) = true := by decide

theorem test_decode_stack :
    reads defaultConfig 0b0010000001000011#16 0x0000#16 (.push .r3) = true ∧
    reads defaultConfig 0b0010000001010011#16 0x0000#16 (.pop .r3) = true := by decide

theorem test_decode_special :
    reads defaultConfig 0b0010000001100011#16 0x0000#16 (.getpc .r3) = true ∧
    reads defaultConfig 0b0010000001110011#16 0x0000#16 (.getflags .r3) = true ∧
    reads laterListed 0b0010000001110011#16 0x0000#16 (.setyR .r3) = true ∧
    reads defaultConfig 0b0010000010000101#16 0x0000#16 (.setyL (.short 5#4)) = true ∧
    reads defaultConfig 0b0010000010010011#16 0x0000#16 (.gety .r3) = true ∧
    reads defaultConfig 0b0000000000000000#16 0x0000#16 (.nop) = true ∧
    reads defaultConfig 0b0000000000000001#16 0x0000#16 (.sleep) = true ∧
    reads defaultConfig 0b0000000000000100#16 0x0000#16 (.clrdiverr) = true := by decide

theorem test_decode_interrupt :
    reads defaultConfig 0b0010000010100011#16 0x0000#16 (.intR .r3) = true ∧
    reads defaultConfig 0b0010000010111111#16 0xBEEF#16 (.intL (.word 0xBEEF#16)) = true ∧
    reads defaultConfig 0b0010000011000011#16 0x0000#16 (.getia .r3) = true ∧
    reads defaultConfig 0b0010000011010011#16 0x0000#16 (.setiaR .r3) = true ∧
    reads defaultConfig 0b0010000011110101#16 0x0000#16 (.setiaL (.short 5#4)) = true ∧
    reads defaultConfig 0b0000000000000011#16 0x0000#16 (.rfi) = true := by decide

theorem test_decode_reserved :
    reads defaultConfig 0b0011101001011100#16 0x0000#16 (.reserved 0xA5C#12) = true := by decide

theorem test_decode_unassigned : reads defaultConfig 0x5C21#16 0#16 (.unassigned 0x5C21#16) = true := by decide
theorem test_decode_extra :
    reads { defaultConfig with extra := [⟨.twoParam 0x5C#8, .inpL⟩] } 0x5CF1#16 0x0102#16 (.inpL (.word 0x0102#16) .r1) = true := by
  decide
/-- Opcode values of the formats 1P, 1L and 0P: the form reads `w[7:4]` and `w[3:0]`. -/
theorem test_decode_extra_formats :
    reads { defaultConfig with extra := everyFormat } 0x21A3#16 0#16 (.inpL (.short 10#4) .r3) = true ∧
    reads { defaultConfig with extra := everyFormat } 0x1005#16 0#16 (.setyR .r5) = true ∧
    reads { defaultConfig with extra := everyFormat } 0x0A12#16 0#16 (.bbits .r1 .r2) = true ∧
    reads { defaultConfig with extra := everyFormat } 0x0A13#16 0#16 (.unassigned 0x0A13#16) = true ∧
    reads { defaultConfig with clash := .refuse, extra := everyFormat } 0x1005#16 0#16 (.unassigned 0x1005#16) = true := by
  decide
/-- Octets 0x5A 0xF1 0x12 0x34 of `SET R1, 0x1234`, low octets first. -/
theorem test_decode_octets :
    (match decodeOctets defaultConfig [0xF1#8, 0x5A#8, 0x34#8, 0x12#8] with
      | .ok p => p == (.setL (.word 0x1234#16) .r1, [])
      | .error _ => false) = true := by decide
theorem test_decode_truncated :
    (match decodeOctets defaultConfig [0xF1#8, 0x5A#8, 0x34#8] with
      | .ok _ => false
      | .error e => e == .truncated) = true := by decide

/-! ### One step: the example of each rule -/

/-- R121: `LOAD [R2 + 4], R3`. -/
theorem test_load : ends (step (placed (loadWord (regs [(.r2, 0x1000#16)]) 0x1004#16 0xABCD#16) 0x100#16 0x8243#16 0#16))
    (fun t => t.reg .r3 == 0xABCD#16 && t.pc == 0x102#16) = true := by decide
/-- R122: `LOAD.B [R2 + R4], R3`. -/
theorem test_load_b : ends (step (placed ((regs [(.r2, 0x1000#16), (.r4, 5#16), (.r3, 0x7777#16)]).putOctet 0x1005#16 0xAB#8)
    0x100#16 0xB243#16 0#16)) (fun t => t.reg .r3 == 0x00AB#16) = true := by decide
/-- R123: `STORE [R0 + 0x2000:w], R5`. -/
theorem test_store : ends (step (placed (regs [(.r5, 0x1234#16)]) 0x100#16 0xC0F5#16 0x2000#16))
    (fun t => t.octet 0x2000#16 == 0x34#8 && t.octet 0x2001#16 == 0x12#8 && t.pc == 0x104#16) = true := by decide
/-- R124: `STORE.B [R2 + 1], R5`. -/
theorem test_store_b : ends (step (placed (loadWord (regs [(.r2, 0x2000#16), (.r5, 0x1234#16)]) 0x2000#16 0#16) 0x100#16
    0xE215#16 0#16)) (fun t => t.octet 0x2001#16 == 0x34#8 && t.octet 0x2000#16 == 0x00#8) = true := by decide
/-- R131: `ADD R1, R2`. -/
theorem test_add : ends (step (placed (regs [(.r1, 0x7FFF#16), (.r2, 1#16)]) 0x100#16 0x4021#16 0#16))
    (fun t => t.reg .r1 == 0x8000#16 && flagsOf t == (true, false, false, false)) = true := by decide
/-- R131: 0x8000 + 0x8000. -/
theorem test_add_wraps : ends (step (placed (regs [(.r1, 0x8000#16), (.r2, 0x8000#16)]) 0x100#16 0x4021#16 0#16))
    (fun t => t.reg .r1 == 0#16 && flagsOf t == (true, true, false, false)) = true := by decide
/-- R132: `ADDC R3, R4`. -/
theorem test_addc : ends (step (placed ((regs [(.r3, 1#16), (.r4, 2#16)]).setCarry true) 0x100#16 0x4443#16 0#16))
    (fun t => t.reg .r3 == 4#16 && flagsOf t == (false, false, false, false)) = true := by decide
/-- R133: `SUB R1, R2`. -/
theorem test_sub : ends (step (placed (regs [(.r2, 1#16)]) 0x100#16 0x4221#16 0#16))
    (fun t => t.reg .r1 == 0xFFFF#16 && flagsOf t == (false, true, false, false)) = true := by decide
/-- R134: `SUBC R1, 0`. -/
theorem test_subc : ends (step (placed ((regs [(.r1, 5#16)]).setCarry true) 0x100#16 0x4601#16 0#16))
    (fun t => t.reg .r1 == 4#16 && flagsOf t == (false, false, false, false)) = true := by decide
/-- R135 and R136: `NOT R1`, `NEG R1`. -/
theorem test_not_neg :
    ends (step (placed (regs [(.r1, 0x00FF#16)]) 0x100#16 0x2001#16 0#16)) (fun t => t.reg .r1 == 0xFF00#16) = true ∧
    ends (step (placed (regs [(.r1, 5#16)]) 0x100#16 0x2011#16 0#16)) (fun t => t.reg .r1 == 0xFFFB#16) = true := by decide
/-- R137 to R139: `AND R1, R2`, `OR R1, R2`, `XOR R1, R2`. -/
theorem test_logic :
    ends (step (placed (regs [(.r1, 0x0FF0#16), (.r2, 0x00FF#16)]) 0x100#16 0x4721#16 0#16)) (fun t => t.reg .r1 == 0x00F0#16) = true ∧
    ends (step (placed (regs [(.r1, 0x0FF0#16), (.r2, 0x00FF#16)]) 0x100#16 0x4821#16 0#16)) (fun t => t.reg .r1 == 0x0FFF#16) = true ∧
    ends (step (placed (regs [(.r1, 0x0FF0#16), (.r2, 0x00FF#16)]) 0x100#16 0x4921#16 0#16)) (fun t => t.reg .r1 == 0x0F0F#16) = true := by
  decide
/-- R141: `SLL R1, 4`. -/
theorem test_sll : ends (step (placed (regs [(.r1, 0x1234#16)]) 0x100#16 0x4B41#16 0#16))
    (fun t => t.reg .r1 == 0x2340#16 && t.flags.carry) = true := by decide
/-- R142: `SRL R1, 4`. -/
theorem test_srl : ends (step (placed (regs [(.r1, 0x1234#16)]) 0x100#16 0x4D41#16 0#16))
    (fun t => t.reg .r1 == 0x0123#16 && !t.flags.carry) = true := by decide
/-- R143: `SRA R1, 1`. -/
theorem test_sra : ends (step (placed (regs [(.r1, 0x8001#16)]) 0x100#16 0x4F11#16 0#16))
    (fun t => t.reg .r1 == 0xC000#16 && t.flags.carry) = true := by decide
/-- R145 and R146: `ROTL R1, 4`, `ROTR R1, 4`. -/
theorem test_rotates :
    ends (step (placed (regs [(.r1, 0x1234#16)]) 0x100#16 0x5141#16 0#16)) (fun t => t.reg .r1 == 0x2341#16) = true ∧
    ends (step (placed (regs [(.r1, 0x1234#16)]) 0x100#16 0x5341#16 0#16)) (fun t => t.reg .r1 == 0x4123#16) = true := by decide
/-- R150: `MUL R1, R2`. -/
theorem test_mul : ends (step (placed (regs [(.r1, 0x1234#16), (.r2, 0x0100#16)]) 0x100#16 0x5421#16 0#16))
    (fun t => t.reg .r1 == 0x3400#16 && t.y == 0x0012#16) = true := by decide
/-- R152: `DIV R1, R2`. -/
theorem test_div : ends (step (placed ((regs [(.r2, 2#16)]).setY 1#16) 0x100#16 0x5621#16 0#16))
    (fun t => t.reg .r1 == 0x8000#16 && t.y == 0#16) = true := by decide
/-- R152, R247: a divisor of 0 with interrupts disabled sets DE and nothing else. -/
theorem test_div_by_zero : ends (step (placed (regs [(.r1, 7#16)]) 0x100#16 0x5601#16 0#16))
    (fun t => t.reg .r1 == 7#16 && t.pc == 0x102#16 && flagsOf t == (false, false, true, false)) = true := by decide
/-- R163: `BEQ R1, R2` passes, and fails over a NOP. -/
theorem test_beq :
    ends (step (placed (regs [(.r1, 7#16), (.r2, 7#16)]) 0x100#16 0x5B21#16 0#16)) (fun t => t.pc == 0x102#16) = true ∧
    ends (step (placed (regs [(.r1, 7#16), (.r2, 8#16)]) 0x100#16 0x5B21#16 0#16)) (fun t => t.pc == 0x104#16) = true := by decide
/-- R164: `BNEQ R1, 0`, failing over an instruction of two words. -/
theorem test_bneq :
    ends (step (placed (regs [(.r1, 3#16)]) 0x100#16 0x6001#16 0#16)) (fun t => t.pc == 0x102#16) = true ∧
    ends (step (placed (regs []) 0x100#16 0x6001#16 0x5AF1#16)) (fun t => t.pc == 0x106#16) = true := by decide
/-- R165 and R167: 1 against 0xFFFF, signed and unsigned. -/
theorem test_bg_bug :
    ends (step (placed (regs [(.r1, 1#16), (.r2, 0xFFFF#16)]) 0x100#16 0x6121#16 0#16)) (fun t => t.pc == 0x102#16) = true ∧
    ends (step (placed (regs [(.r1, 1#16), (.r2, 0xFFFF#16)]) 0x100#16 0x6521#16 0#16)) (fun t => t.pc == 0x104#16) = true := by decide
/-- R166 and R168: `BGE R1, 0` with 0x8000, `BUGE R1, 10` with 10. -/
theorem test_bge_buge :
    ends (step (placed (regs [(.r1, 0x8000#16)]) 0x100#16 0x6401#16 0#16)) (fun t => t.pc == 0x104#16) = true ∧
    ends (step (placed (regs [(.r1, 10#16)]) 0x100#16 0x68A1#16 0#16)) (fun t => t.pc == 0x102#16) = true := by decide
/-- R169 and R170 under `later_listed`: `BBITS R1, R2` with 0x00F0 and 0x0010, `BCLEAR R1, R2` with 0x00F0 and 0x0001. -/
theorem test_bbits_bclear :
    ends (step (placed { regs [(.r1, 0xF0#16), (.r2, 0x10#16)] with cfg := laterListed } 0x100#16 0x5221#16 0#16))
      (fun t => t.pc == 0x102#16) = true ∧
    ends (step (placed { regs [(.r1, 0xF0#16), (.r2, 1#16)] with cfg := laterListed } 0x100#16 0x5321#16 0#16))
      (fun t => t.pc == 0x102#16) = true := by decide
/-- R171 and R172: `BOVF` with OF = 1, `BOCF` with CF = 0. -/
theorem test_bovf_bocf :
    ends (step (placed ((regs []).setFlags ⟨true, false, false, false⟩) 0x100#16 0x0008#16 0#16)) (fun t => t.pc == 0x102#16) = true ∧
    ends (step (placed ((regs []).setFlags ⟨true, false, false, false⟩) 0x100#16 0x0009#16 0#16)) (fun t => t.pc == 0x104#16) = true := by
  decide
/-- R174: a failed test skips the conditional after it and the instruction after that. -/
theorem test_skip_chain : ends (step (loadWord (placed (regs []) 0x100#16 0x6001#16 0x6001#16) 0x104#16 0x1204#16))
    (fun t => t.pc == 0x106#16) = true := by decide
/-- R181: `SWP R1, R2`, `SWP R5, R0`. -/
theorem test_swp :
    ends (step (placed (regs [(.r1, 0x1111#16), (.r2, 0x2222#16)]) 0x100#16 0x5821#16 0#16))
      (fun t => t.reg .r1 == 0x2222#16 && t.reg .r2 == 0x1111#16) = true ∧
    ends (step (placed (regs [(.r5, 0x1111#16)]) 0x100#16 0x5805#16 0#16)) (fun t => t.reg .r5 == 0#16) = true := by decide
/-- R182 and R183: `CPY R1, R2`, `SET R1, 0x1234`. -/
theorem test_cpy_set :
    ends (step (placed (regs [(.r2, 0xBEEF#16)]) 0x100#16 0x5921#16 0#16)) (fun t => t.reg .r1 == 0xBEEF#16) = true ∧
    ends (step (placed (regs []) 0x100#16 0x5AF1#16 0x1234#16)) (fun t => t.reg .r1 == 0x1234#16 && t.pc == 0x104#16) = true := by
  decide
/-- R184 and R185: `XCHG R1`, `SXTBD R1`. -/
theorem test_xchg_sxtbd :
    ends (step (placed (regs [(.r1, 0x1234#16)]) 0x100#16 0x2021#16 0#16)) (fun t => t.reg .r1 == 0x3412#16) = true ∧
    ends (step (placed (regs [(.r1, 0x00FE#16)]) 0x100#16 0x2031#16 0#16)) (fun t => t.reg .r1 == 0xFFFE#16) = true := by decide
/-- R191 and R192: `JMP [R1 + 2]`, `JMP [-6]` at 0x0010. -/
theorem test_jmp :
    ends (step (placed (regs [(.r1, 0x0300#16)]) 0x100#16 0x7E21#16 0#16)) (fun t => t.pc == 0x0302#16) = true ∧
    ends (step (placed (regs []) 0x0010#16 0x13FA#16 0#16)) (fun t => t.pc == 0x000C#16) = true := by decide
/-- R194: `CALL [R0 + 0x0200:w]` at 0x0010 with SP = 0. -/
theorem test_call_absolute : ends (step (placed (regs []) 0x0010#16 0x7FF0#16 0x0200#16))
    (fun t => t.reg .r15 == 0xFFFE#16 && t.word 0xFFFE#16 == 0x0014#16 && t.pc == 0x0200#16) = true := by decide
/-- R195: `CALL [+6]` at 0x0010. -/
theorem test_call_relative : ends (step (placed (regs [(.r15, 0x1000#16)]) 0x0010#16 0x1406#16 0#16))
    (fun t => t.reg .r15 == 0x0FFE#16 && t.word 0x0FFE#16 == 0x0012#16 && t.pc == 0x0018#16) = true := by decide
/-- R196: `RET`. -/
theorem test_ret : ends (step (placed (loadWord (regs [(.r15, 0x0FFE#16)]) 0x0FFE#16 0x0012#16) 0x100#16 0x0002#16 0#16))
    (fun t => t.pc == 0x0012#16 && t.reg .r15 == 0x1000#16) = true := by decide
/-- R200: `PUSH R3`, and `PUSH SP`, which pushes the old SP. -/
theorem test_push :
    ends (step (placed (regs [(.r15, 0x1000#16), (.r3, 0xBEEF#16)]) 0x100#16 0x2043#16 0#16))
      (fun t => t.reg .r15 == 0x0FFE#16 && t.octet 0x0FFE#16 == 0xEF#8 && t.octet 0x0FFF#16 == 0xBE#8) = true ∧
    ends (step (placed (regs [(.r15, 0x1000#16)]) 0x100#16 0x204F#16 0#16)) (fun t => t.word 0x0FFE#16 == 0x1000#16) = true := by decide
/-- R201: `POP R4`, and `POP SP`, which leaves the popped value. -/
theorem test_pop :
    ends (step (placed (loadWord (regs [(.r15, 0x0FFE#16)]) 0x0FFE#16 0xBEEF#16) 0x100#16 0x2054#16 0#16))
      (fun t => t.reg .r4 == 0xBEEF#16 && t.reg .r15 == 0x1000#16) = true ∧
    ends (step (placed (loadWord (regs [(.r15, 0x0FFE#16)]) 0x0FFE#16 0xBEEF#16) 0x100#16 0x205F#16 0#16))
      (fun t => t.reg .r15 == 0xBEEF#16) = true := by decide
/-- R205: `NOP` at 0x0010. -/
theorem test_nop : ends (step (placed (regs []) 0x0010#16 0x0000#16 0#16)) (fun t => t.pc == 0x0012#16) = true := by decide
/-- R206: `SLEEP` with IA = 0x0100, then the INT line low with 0x0105 on the data bus. -/
theorem test_sleep :
    ends (andThen (step { placed ((regs [(.r15, 0x1000#16), (.r1, 7#16)]).setIa 0x0100#16) 0x0020#16 0x0001#16 0#16 with
        inputs := [⟨false, 0#16⟩, ⟨true, 0x0105#16⟩] }) step)
      (fun t => t.word 0x0FFE#16 == 0x0022#16 && t.word 0x0FFC#16 == 7#16 && t.reg .r15 == 0x0FFC#16 &&
        t.reg .r1 == 0x0105#16 && t.pc == 0x0100#16 && t.flags.interrupt && !t.asleep) = true := by decide
/-- R207: `GETPC R1` at 0x0040, with either offset. -/
theorem test_getpc :
    ends (step (placed (regs []) 0x0040#16 0x2061#16 0#16)) (fun t => t.reg .r1 == 0x0042#16) = true ∧
    ends (step (placed { regs [] with cfg := { defaultConfig with getpcOffset := .four } } 0x0040#16 0x2061#16 0#16))
      (fun t => t.reg .r1 == 0x0044#16) = true := by decide
/-- R208: `GETFLAGS R1` with OF = 1, CF = 0, DE = 1, IF = 0. -/
theorem test_getflags : ends (step (placed ((regs []).setFlags ⟨true, false, true, false⟩) 0x100#16 0x2071#16 0#16))
    (fun t => t.reg .r1 == 0x000A#16) = true := by decide
/-- R209: `SETY 0x1234`, and `SETY R1` under `later_listed`. -/
theorem test_sety :
    ends (step (placed (regs []) 0x100#16 0x208F#16 0x1234#16)) (fun t => t.y == 0x1234#16) = true ∧
    ends (step (placed { regs [(.r1, 9#16)] with cfg := laterListed } 0x100#16 0x2071#16 0#16)) (fun t => t.y == 9#16) = true := by decide
/-- R210 and R211: `GETY R2`, `CLRDIVERR` with FLAGS = 0x000B. -/
theorem test_gety_clrdiverr :
    ends (step (placed ((regs []).setY 0xFFFE#16) 0x100#16 0x2092#16 0#16)) (fun t => t.reg .r2 == 0xFFFE#16) = true ∧
    ends (step (placed ((regs []).setFlags ⟨true, false, true, true⟩) 0x100#16 0x0004#16 0#16))
      (fun t => flagsWord t.flags == 0x0009#16) = true := by decide
/-- R221: `INT 5` at 0x0030. -/
theorem test_int : ends (step (placed ((regs [(.r15, 0x1000#16), (.r1, 0xAA#16)]).setIa 0x0100#16) 0x0030#16 0x20B5#16 0#16))
    (fun t => t.word 0x0FFE#16 == 0x0032#16 && t.word 0x0FFC#16 == 0x00AA#16 && t.reg .r15 == 0x0FFC#16 &&
      t.reg .r1 == 5#16 && t.pc == 0x0100#16 && t.iacq) = true := by decide
/-- R222 and R223: `GETIA R1`, `SETIA 0x0100`. -/
theorem test_getia_setia :
    ends (step (placed ((regs []).setIa 0x0100#16) 0x100#16 0x20C1#16 0#16)) (fun t => t.reg .r1 == 0x0100#16) = true ∧
    ends (step (placed (regs []) 0x100#16 0x20FF#16 0x0100#16)) (fun t => t.ia == 0x0100#16) = true := by decide
/-- R224: `RFI`. -/
theorem test_rfi : ends (step (placed ((loadWord (loadWord (regs [(.r15, 0x0FFC#16)]) 0x0FFC#16 0x00AA#16) 0x0FFE#16 0x0032#16).setInterrupt
    true) 0x200#16 0x0003#16 0#16))
    (fun t => t.reg .r1 == 0x00AA#16 && t.pc == 0x0032#16 && t.reg .r15 == 0x1000#16 && !t.iacq) = true := by decide
/-- R231 and R232 under `later_listed`: `INP R1, 3` answered 0x0041, `OUT R1, R2`. -/
theorem test_inp_out :
    ends (step (placed { regs [] with cfg := laterListed, ioInputs := [0x0041#16] } 0x100#16 0x5531#16 0#16))
      (fun t => t.reg .r1 == 0x0041#16 && t.ioInputs == []) = true ∧
    ends (step (placed { regs [(.r1, 0x41#16), (.r2, 3#16)] with cfg := laterListed } 0x100#16 0x5621#16 0#16))
      (fun t => t.outputs == [.io 3#8 0x0041#16]) = true := by decide

/-! ### Witnesses: for every obligation with hypotheses, values that meet them, clause by clause at the ends of its range -/

/-- RAM in canonical form, and a step that answers a next state. -/
theorem witness_StepKeepsInvariant : ∃ t, (placed (regs []) 0xFFFE#16 0#16 0#16).Inv ∧ step (placed (regs []) 0xFFFE#16 0#16 0#16) = .next t :=
  ⟨_, rfl, rfl⟩
theorem witness_StepKeepsParameters : ∃ t, step (placed (regs []) 0xFFFE#16 0#16 0#16) = .next t := ⟨_, rfl⟩
theorem witness_RegisterFile : Reg.r15 ≠ .r0 ∧ Reg.r1 ≠ .r0 := by decide
theorem witness_OctetAccess :
    State.reset.isRam 0xFFFF#16 = true ∧ ({ regs [] with cfg := mapped } : State).isRam 0x5000#16 = true := by decide
/-- The last and the first word, both byte orders, and an even word under the alignment policy `refuse`. -/
theorem witness_WordWriteThenRead :
    State.reset.wordRam 0xFFFF#16 = true ∧ State.reset.cfg.byteOrder = .little ∧
    ({ regs [] with cfg := { aligned with byteOrder := .big } } : State).wordRam 0#16 = true ∧
    ({ aligned with byteOrder := .big } : Config).byteOrder = .big := by decide
/-- A word of RAM at the top of the space and a word of a device, for each form. -/
theorem witness_LoadCompletes :
    (regs [(.r2, 0xFFFF#16)]).wordReadable ((regs [(.r2, 0xFFFF#16)]).reg .r2 + (regs [(.r2, 0xFFFF#16)]).reg .r0) = true ∧
    (regs [(.r2, 0xFFFF#16)]).wordPlain ((regs [(.r2, 0xFFFF#16)]).reg .r2 + (regs [(.r2, 0xFFFF#16)]).reg .r0) = true ∧
    ({ regs [] with cfg := mapped } : State).wordReadable ((regs []).reg .r0 + litValue (.word 0x4000#16)) = true ∧
    ({ regs [] with cfg := mapped } : State).wordPlain ((regs []).reg .r0 + litValue (.word 0x8000#16)) = true := by decide
theorem witness_LoadByteCompletes :
    (Instr.loadbR .r2 .r4 .r3 = .loadbR .r2 .r4 .r3 ∧ 0xFFFF#16 = (regs [(.r2, 0xFFFF#16)]).reg .r2 + (regs [(.r2, 0xFFFF#16)]).reg .r4) ∧
    (Instr.loadbL .r0 (.short 14#4) .r3 = .loadbL .r0 (.short 14#4) .r3 ∧ 14#16 = (regs []).reg .r0 + litValue (.short 14#4)) ∧
    (regs []).readable 0xFFFF#16 = true ∧ (regs []).readable 14#16 = true ∧ (regs []).plain 14#16 = true ∧
    (regs []).cfg.loadbHigh = .zero ∧ ({ defaultConfig with loadbHigh := .preserve } : Config).loadbHigh = .preserve := by decide
theorem witness_StoreCompletes :
    (Instr.storeR .r2 .r4 .r3 = .storeR .r2 .r4 .r3 ∧ 0xFFFF#16 = (regs [(.r2, 0xFFFF#16)]).reg .r2 + (regs [(.r2, 0xFFFF#16)]).reg .r4) ∧
    (Instr.storeL .r0 (.word 0x4FFF#16) .r3 = .storeL .r0 (.word 0x4FFF#16) .r3 ∧ 0x4FFF#16 = (regs []).reg .r0 + litValue (.word 0x4FFF#16)) ∧
    (regs []).wordWritable 0xFFFF#16 = true ∧ ({ regs [] with cfg := mapped } : State).wordWritable 0x4FFF#16 = true := by decide
theorem witness_StoreByteCompletes :
    (Instr.storebR .r2 .r4 .r3 = .storebR .r2 .r4 .r3 ∧ 0xFFFF#16 = (regs [(.r2, 0xFFFF#16)]).reg .r2 + (regs [(.r2, 0xFFFF#16)]).reg .r4) ∧
    (Instr.storebL .r0 (.word 0x4FFF#16) .r3 = .storebL .r0 (.word 0x4FFF#16) .r3 ∧ 0x4FFF#16 = (regs []).reg .r0 + litValue (.word 0x4FFF#16)) ∧
    (regs []).writable 0xFFFF#16 = true ∧ ({ regs [] with cfg := mapped } : State).writable 0x4FFF#16 = true := by decide
/-- Odd words, the ends of a ROM and of an empty region, the second octet of a word in one, each push of an entry, the second
pop of RFI, a fetch of either word, and a skip chain after a conditional. -/
theorem witness_StoppedAccesses :
    (ReadStops { regs [] with cfg := aligned } 0xFFFF#16 (.misaligned 0xFFFF#16) ∧
      ReadStops { regs [] with cfg := mapped } 0xCFFF#16 (.emptyRegion 0xCFFF#16) ∧
      ReadStops { regs [] with cfg := mapped } 0xBFFF#16 (.emptyRegion 0xC000#16) ∧
      ReadStops { regs [(.r15, 0xBFFE#16)] with cfg := mapped } ((regs [(.r15, 0xBFFE#16)]).reg .r15 + 2#16) (.emptyRegion 0xC000#16)) ∧
    (WriteStops { regs [] with cfg := aligned } 1#16 (.misaligned 1#16) ∧
      WriteStops { regs [] with cfg := mapped } 0x8000#16 (.romWrite 0x8000#16) ∧
      WriteStops { regs [] with cfg := mapped } 0x7FFF#16 (.romWrite 0x8000#16)) ∧
    (({ regs [] with cfg := mapped } : State).kindAt 0xC000#16 = .empty ∧
      OctetStops { regs [] with cfg := mapped } 0x8FFF#16 (.romWrite 0x8FFF#16) ∧
      OctetStops { regs [] with cfg := mapped } 0xC000#16 (.emptyRegion 0xC000#16)) ∧
    (EntryStops { regs [(.r15, 0x9002#16)] with cfg := mapped } (.romWrite 0x8FFE#16) ∧
      EntryStops { regs [(.r15, 0x9000#16)] with cfg := mapped } (.romWrite 0x8FFE#16) ∧
      canAccept { (regs [(.r15, 0x9000#16)]).setIa 1#16 with cfg := mapped } = true) :=
  ⟨⟨.inl ⟨rfl, rfl⟩, .inr (.inl ⟨rfl, rfl, rfl⟩), .inr (.inr ⟨rfl, by decide, rfl, rfl⟩), .inr (.inl ⟨rfl, rfl, rfl⟩)⟩,
    ⟨.inl ⟨rfl, rfl⟩, .inr (.inl ⟨rfl, .inl ⟨rfl, rfl⟩⟩), .inr (.inr ⟨rfl, rfl, .inl ⟨rfl, rfl⟩⟩)⟩,
    ⟨rfl, .inl ⟨rfl, rfl⟩, .inr ⟨rfl, rfl⟩⟩,
    ⟨.inr ⟨rfl, .inr (.inl ⟨rfl, .inl ⟨rfl, rfl⟩⟩)⟩, .inl (.inr (.inl ⟨rfl, .inl ⟨rfl, rfl⟩⟩)), rfl⟩⟩
theorem witness_StoppedAccesses_fetch :
    ReadStops { (regs []).setPc 0xC000#16 with cfg := mapped } ((regs []).setPc 0xC000#16).pc (.emptyRegion 0xC000#16) ∧
    (placed { (regs []) with cfg := mapped } 0xBFFE#16 0x41F1#16 0#16).wordPlain 0xBFFE#16 = true ∧
    decodeFirst mapped ((placed { (regs []) with cfg := mapped } 0xBFFE#16 0x41F1#16 0#16).word 0xBFFE#16) = .ok (.addL (.word 0#16) .r1) ∧
    ReadStops (placed { (regs []) with cfg := mapped } 0xBFFE#16 0x41F1#16 0#16) (0xBFFE#16 + 2#16) (.emptyRegion 0xC000#16) ∧
    SkipsOver (placed { (regs []) with cfg := mapped } 0xBFFE#16 0x5B21#16 0#16) [.beqR .r2 .r1] 0xBFFE#16 0xC000#16 :=
  ⟨.inr (.inl ⟨rfl, rfl, rfl⟩), rfl, rfl, .inr (.inl ⟨rfl, rfl, rfl⟩), rfl, rfl, rfl, rfl⟩
theorem witness_AddCompletes :
    (Instr.addR .r2 .r1 = .addR .r2 .r1 ∧ 1#16 = (regs [(.r2, 1#16)]).reg .r2 ∧ false = false) ∧
    (Instr.addL (.word 0xFFFF#16) .r0 = .addL (.word 0xFFFF#16) .r0 ∧ 0xFFFF#16 = litValue (.word 0xFFFF#16) ∧ false = false) ∧
    (Instr.addcR .r2 .r2 = .addcR .r2 .r2 ∧ 1#16 = (regs [(.r2, 1#16)]).reg .r2 ∧ true = ((regs []).setCarry true).flags.carry) := by decide
theorem witness_SubCompletes :
    (Instr.subR .r2 .r1 = .subR .r2 .r1 ∧ 1#16 = (regs [(.r2, 1#16)]).reg .r2 ∧ false = false) ∧
    (Instr.subL (.short 0#4) .r0 = .subL (.short 0#4) .r0 ∧ 0#16 = litValue (.short 0#4) ∧ false = false) ∧
    (Instr.subcR .r2 .r2 = .subcR .r2 .r2 ∧ 1#16 = (regs [(.r2, 1#16)]).reg .r2 ∧ true = ((regs []).setCarry true).flags.carry) ∧
    (Instr.subcL (.short 14#4) .r2 = .subcL (.short 14#4) .r2 ∧ 14#16 = litValue (.short 14#4) ∧ true = ((regs []).setCarry true).flags.carry) := by
  decide
/-- A carry out of the low words. -/
theorem witness_AddPairIs32BitAdd : ∃ t u, Reg.r1 ≠ .r0 ∧ Reg.r2 ≠ .r0 ∧ Reg.r1 ≠ .r2 ∧ Reg.r4 ≠ .r1 ∧
    exec (.addR .r3 .r1) (regs [(.r1, 0xFFFF#16), (.r3, 1#16)]) = .next t ∧ exec (.addcR .r4 .r2) t = .next u :=
  ⟨_, _, by decide, by decide, by decide, by decide, rfl, rfl⟩
/-- A borrow out of the low words. -/
theorem witness_SubPairIs32BitSub : ∃ t u, Reg.r1 ≠ .r0 ∧ Reg.r2 ≠ .r0 ∧ Reg.r1 ≠ .r2 ∧ Reg.r4 ≠ .r1 ∧
    exec (.subR .r3 .r1) (regs [(.r3, 1#16)]) = .next t ∧ exec (.subcR .r4 .r2) t = .next u :=
  ⟨_, _, by decide, by decide, by decide, by decide, rfl, rfl⟩
theorem witness_LogicCompletes :
    (Instr.notR .r1 = .notR .r1 ∧ 0xFFFF#16 = ~~~ (regs []).reg .r1) ∧
    (Instr.negR .r1 = .negR .r1 ∧ 0x8000#16 = ~~~ (regs [(.r1, 0x8000#16)]).reg .r1 + 1#16) ∧
    (Instr.andR .r2 .r1 = .andR .r2 .r1 ∧ 0#16 = (regs []).reg .r1 &&& (regs []).reg .r2) ∧
    (Instr.orR .r2 .r1 = .orR .r2 .r1 ∧ 0#16 = (regs []).reg .r1 ||| (regs []).reg .r2) ∧
    (Instr.xorR .r2 .r1 = .xorR .r2 .r1 ∧ 0#16 = (regs []).reg .r1 ^^^ (regs []).reg .r2) := by decide
/-- Amounts 0, 1, 14, 16 and 65535. -/
theorem witness_ShiftsComplete :
    (Instr.sllR .r2 .r1 = .sllR .r2 .r1 ∧ 0 = ((regs []).reg .r2).toNat) ∧
    (Instr.sllL (.short 14#4) .r1 = .sllL (.short 14#4) .r1 ∧ 14 = (litValue (.short 14#4)).toNat) ∧
    0x4000#16 = (regs [(.r1, 1#16)]).reg .r1 <<< 14 ∧ false = ((regs [(.r1, 1#16)]).reg .r1 <<< (14 - 1)).msb ∧
    (Instr.srlR .r2 .r1 = .srlR .r2 .r1 ∧ 16 = ((regs [(.r2, 16#16)]).reg .r2).toNat) ∧
    0#16 = (regs [(.r1, 0x8000#16)]).reg .r1 >>> 16 ∧ true = ((regs [(.r1, 0x8000#16)]).reg .r1 >>> (16 - 1)).getLsbD 0 ∧
    (Instr.srlL (.short 1#4) .r1 = .srlL (.short 1#4) .r1 ∧ 1 = (litValue (.short 1#4)).toNat) ∧
    (Instr.sraR .r2 .r1 = .sraR .r2 .r1 ∧ 1 = ((regs [(.r2, 1#16)]).reg .r2).toNat) ∧
    0xC000#16 = ((regs [(.r1, 0x8001#16)]).reg .r1).sshiftRight 1 ∧ true = (((regs [(.r1, 0x8001#16)]).reg .r1).sshiftRight (1 - 1)).getLsbD 0 ∧
    (Instr.sraL (.word 0xFFFF#16) .r1 = .sraL (.word 0xFFFF#16) .r1 ∧ 65535 = (litValue (.word 0xFFFF#16)).toNat) := by decide
theorem witness_RotatesComplete :
    (Instr.rotlR .r2 .r1 = .rotlR .r2 .r1 ∧ 17#16 = (regs [(.r2, 17#16)]).reg .r2) ∧
    (Instr.rotlL (.short 0#4) .r1 = .rotlL (.short 0#4) .r1 ∧ 0#16 = litValue (.short 0#4)) ∧
    (Instr.rotrR .r2 .r1 = .rotrR .r2 .r1 ∧ 17#16 = (regs [(.r2, 17#16)]).reg .r2) ∧
    (Instr.rotrL (.word 15#16) .r1 = .rotrL (.word 15#16) .r1 ∧ 15#16 = litValue (.word 15#16)) := by decide
theorem witness_MulCompletes :
    (Instr.mulR .r2 .r1 = .mulR .r2 .r1 ∧ 0xFFFF#16 = (regs [(.r1, 0xFFFF#16), (.r2, 0xFFFF#16)]).reg .r2) ∧
    (Instr.mulL (.short 0#4) .r1 = .mulL (.short 0#4) .r1 ∧ 0#16 = litValue (.short 0#4)) ∧
    0xFFFE0001#32 = (if defaultConfig.muldivSigned then ((regs [(.r1, 0xFFFF#16)]).reg .r1).signExtend 32 * (0xFFFF#16).signExtend 32
      else ((regs [(.r1, 0xFFFF#16)]).reg .r1).setWidth 32 * (0xFFFF#16).setWidth 32) := by decide
/-- The largest dividend by 1, unsigned; -2 by 3, signed. -/
theorem witness_DivCompletes :
    (Instr.divR .r2 .r1 = .divR .r2 .r1 ∧ 1#16 = (regs [(.r2, 1#16)]).reg .r2) ∧
    (Instr.divL (.short 3#4) .r1 = .divL (.short 3#4) .r1 ∧ 3#16 = litValue (.short 3#4)) ∧ 1#16 ≠ 0#16 ∧ 3#16 ≠ 0#16 ∧
    0xFFFFFFFF#32 = ((regs [(.r1, 0xFFFF#16)]).setY 0xFFFF#16).y ++ (regs [(.r1, 0xFFFF#16)]).reg .r1 ∧
    defaultConfig.muldivSigned = false ∧ ({ defaultConfig with muldivSigned := true } : Config).muldivSigned = true ∧
    ¬ ((0xFFFFFFFE#32).toInt = -2147483648 ∧ (3#16).toInt = -1) := by decide
theorem witness_DivByZeroRaises :
    (Instr.divR .r0 .r1 = .divR .r0 .r1 ∧ (regs []).reg .r0 = 0#16) ∧
    (Instr.divL (.short 0#4) .r1 = .divL (.short 0#4) .r1 ∧ litValue (.short 0#4) = 0#16) ∧
    (regs []).ia = 0#16 ∧ ((regs []).setInterrupt true).flags.interrupt = true ∧
    ((regs []).setIa 1#16).ia ≠ 0#16 ∧ ((regs []).setIa 1#16).flags.interrupt = false ∧
    ((regs []).setIa 1#16).entryWritable = true := by decide
/-- Well-formed literals, a configuration with empty `EXTRA_OPCODES`, and states in which each test holds and fails. -/
theorem witness_EqualityConditionals :
    (Lit.short 14#4).wf = true ∧ (Lit.word 0xFFFF#16).wf = true ∧ defaultConfig.extra = [] ∧
    (regs []).reg .r1 = (regs []).reg .r2 ∧ (regs [(.r1, 1#16)]).reg .r1 ≠ (regs [(.r1, 1#16)]).reg .r2 ∧
    (regs [(.r1, 14#16)]).reg .r1 = litValue (.short 14#4) ∧ (regs []).reg .r1 ≠ litValue (.short 14#4) := by decide
theorem witness_OrderConditionals :
    (Lit.short 0#4).wf = true ∧ (Lit.word 0x8000#16).wf = true ∧
    (0x8000#16).slt ((regs [(.r1, 0x7FFF#16)]).reg .r1) = true ∧ (0x7FFF#16).slt ((regs [(.r1, 0x7FFF#16)]).reg .r1) = false ∧
    (litValue (.short 0#4)).sle ((regs []).reg .r1) = true ∧ (litValue (.short 0#4)).sle ((regs [(.r1, 0x8000#16)]).reg .r1) = false ∧
    ((regs []).reg .r2).ult ((regs [(.r1, 0xFFFF#16)]).reg .r1) = true ∧ ((regs []).reg .r2).ult ((regs []).reg .r1) = false ∧
    (litValue (.word 0xFFFF#16)).ule ((regs [(.r1, 0xFFFF#16)]).reg .r1) = true ∧
    (litValue (.word 0xFFFF#16)).ule ((regs []).reg .r1) = false := by decide
theorem witness_BitConditionals : laterListed.clash = .laterListed ∧
    (∃ j : Nat, ((regs [(.r1, 0x8000#16), (.r2, 0x8000#16)]).reg .r1).getLsbD j = true ∧
      ((regs [(.r1, 0x8000#16), (.r2, 0x8000#16)]).reg .r2).getLsbD j = true) ∧
    (∀ j : Nat, ((regs []).reg .r1).getLsbD j = true → ((regs []).reg .r2).getLsbD j = false) :=
  ⟨rfl, ⟨15, by decide, by decide⟩, fun j h => by
    have h0 : (0#16).getLsbD j = true := h
    simp at h0⟩
theorem witness_FlagConditionals :
    ((regs []).setFlags ⟨true, true, false, false⟩).flags.overflow = true ∧ (regs []).flags.overflow ≠ true ∧
    ((regs []).setFlags ⟨true, true, false, false⟩).flags.carry = true ∧ (regs []).flags.carry ≠ true := by decide
/-- A NOP alone, and `BEQ R1, 0xBEEF` (two words) before a NOP, from the top of the address space on. -/
theorem witness_SkipChainEnds :
    SkipsTo (placed (regs []) 0xFFFE#16 0#16 0#16) [] .nop 0xFFFE#16 0#16 ∧
    SkipsTo (loadWord (placed (regs []) 0xFFFE#16 0x5DF1#16 0xBEEF#16) 2#16 0#16) [.beqL (.word 0#16) .r1] .nop 0xFFFE#16 4#16 :=
  ⟨⟨_, rfl, rfl, rfl, rfl, rfl, rfl⟩, ⟨2#16, ⟨rfl, rfl, rfl, rfl⟩, rfl, rfl, rfl, rfl, rfl⟩⟩

/-- RAM with one octet everywhere. -/
def everyOctet (b : Byte) : List Host.Cell := (List.range 0x10000).map (fun n => (n, b))
def ofCells (l : List Host.Cell) : State := { regs [] with cfg := aligned, mem := { cells := l } }

theorem wordPlain_ofCells (l : List Host.Cell) (a : Word) (h : a.getLsbD 0 = false) : (ofCells l).wordPlain a = true := by
  show (!a.getLsbD 0 && true && true) = true
  rw [h]; rfl
theorem cfg_ofCells (l : List Host.Cell) : (ofCells l).cfg = aligned := rfl
theorem flags_pc_ofCells (l : List Host.Cell) : (ofCells l).flags.overflow = false ∧ (ofCells l).pc = 0#16 := ⟨rfl, rfl⟩

theorem cellsGet_filled (b : Byte) (l : List Nat) (a : Nat) (h : a ∈ l) : cellsGet a (l.map (fun n => (n, b))) = some b := by
  induction l with
  | nil => cases h
  | cons x l ih =>
    by_cases hx : x = a
    · simp [cellsGet, hx]
    · simp only [List.map_cons, cellsGet, if_neg hx]
      exact ih ((List.mem_cons.mp h).resolve_left (fun e => hx e.symm))

theorem octet_ofCells (l : List Host.Cell) (b : Byte) (a : Word) (h : cellsGet a.toNat l = some b) : (ofCells l).octet a = b := by
  have : (ofCells l).mem.get? a.toNat = some b := h
  simp [State.octet, this]
theorem octet_everyOctet (b : Byte) (a : Word) : (ofCells (everyOctet b)).octet a = b :=
  octet_ofCells _ b a (cellsGet_filled b _ _ (List.mem_range.mpr a.isLt))

theorem decodes_5B5B : decodeFirst aligned (0x5B#8 ++ 0x5B#8) = .ok (.beqR .r5 .r11) := by decide

/-- Every octet 0x5B, words at even addresses only: every word at an even address is `BEQ R11, R5`, one word long. -/
theorem witness_SkipChainEndless : (ofCells (everyOctet 0x5B#8)).pc.getLsbD 0 = false ∧
    (∀ a : Word, a.getLsbD 0 = false → (ofCells (everyOctet 0x5B#8)).wordPlain a = true ∧
      ∃ i, decodeFirst (ofCells (everyOctet 0x5B#8)).cfg ((ofCells (everyOctet 0x5B#8)).word a) = .ok i ∧
        isConditional i = true ∧ (a + BitVec.ofNat 16 (2 * i.words)).getLsbD 0 = false) ∧
    (ofCells (everyOctet 0x5B#8)).flags.overflow = false := by
  refine ⟨by rw [(flags_pc_ofCells _).2]; rfl, fun a ha => ⟨wordPlain_ofCells _ a ha, .beqR .r5 .r11, ?_, rfl, ?_⟩, (flags_pc_ofCells _).1⟩
  · rw [State.word, octet_everyOctet, octet_everyOctet, cfg_ofCells]
    exact decodes_5B5B
  · show (a + 2#16).getLsbD 0 = false
    simp only [BitVec.getLsbD, Nat.testBit_zero, BitVec.toNat_add, decide_eq_false_iff_not] at ha ⊢
    have : (2#16).toNat = 2 := rfl
    omega

/-- A store, a byte store, a push, an INT, a DIV by 0 and a NOP at PC, an interrupt to be accepted, and a CPU that sleeps on. -/
theorem witness_ResetWithinStep :
    (canAccept (placed (regs [(.r1, 0xFFFF#16)]) 0x100#16 0xD012#16 0#16) && (placed (regs [(.r1, 0xFFFF#16)]) 0x100#16 0xD012#16 0#16).pins.intLow) = false ∧
    (placed (regs [(.r1, 0xFFFF#16)]) 0x100#16 0xD012#16 0#16).asleep = false ∧
    (∃ t, fetch (placed (regs [(.r1, 0xFFFF#16)]) 0x100#16 0xD012#16 0#16).tick = .next (.storeR .r0 .r1 .r2, t)) ∧
    stepOctets (placed (regs [(.r1, 0xFFFF#16)]) 0x100#16 0xD012#16 0#16) = [0xFFFF#16, 0x0000#16] ∧
    (∃ t, fetch (placed (regs []) 0x100#16 0xE0F2#16 0x1234#16).tick = .next (.storebL .r0 (.word 0x1234#16) .r2, t)) ∧
    (∃ t, fetch (placed (regs []) 0x100#16 0x2045#16 0#16).tick = .next (.push .r5, t)) ∧
    (∃ t, fetch (placed (regs []) 0x100#16 0x20B5#16 0#16).tick = .next (.intL (.short 5#4), t)) ∧
    (∃ t, fetch (placed ((regs []).setIa 1#16) 0x100#16 0x5601#16 0#16).tick = .next (.divR .r0 .r1, t)) ∧
    canAccept (placed ((regs []).setIa 1#16) 0x100#16 0x5601#16 0#16) = true ∧
    stepOctets (placed ((regs []).setIa 1#16) 0x100#16 0x5601#16 0#16) = [0xFFFE#16, 0xFFFF#16, 0xFFFC#16, 0xFFFD#16] ∧
    stepOctets (placed ((regs []).setIa 1#16) 0x100#16 0x5711#16 0#16) = [] ∧
    stepOctets (placed (regs []) 0x100#16 0x20B5#16 0#16) = [] ∧
    (∃ t, fetch (placed (regs []) 0x100#16 0x0000#16 0#16).tick = .next (.nop, t)) ∧
    (canAccept { (regs []).setIa 1#16 with inputs := [⟨true, 0#16⟩] } &&
      ({ (regs []).setIa 1#16 with inputs := [⟨true, 0#16⟩] } : State).pins.intLow) = true ∧
    (canAccept ((regs []).setAsleep true) && ((regs []).setAsleep true).pins.intLow) = false ∧
    ((regs []).setAsleep true).asleep = true :=
  ⟨by decide, rfl, ⟨_, rfl⟩, by decide, ⟨_, rfl⟩, ⟨_, rfl⟩, ⟨_, rfl⟩, ⟨_, rfl⟩, by decide, by decide, by decide, by decide,
    ⟨_, rfl⟩, by decide, by decide, rfl⟩

theorem witness_MovesComplete :
    (Lit.short 14#4).wf = true ∧ (Lit.word 15#16).wf = true ∧
    (Instr.cpy .r2 .r1 = .cpy .r2 .r1 ∧ 0#16 = (regs []).reg .r2) ∧
    (Instr.setL (.word 0xFFFF#16) .r0 = .setL (.word 0xFFFF#16) .r0 ∧ 0xFFFF#16 = litValue (.word 0xFFFF#16)) ∧
    (Instr.xchg .r1 = .xchg .r1 ∧ 0x3412#16 = ((regs [(.r1, 0x1234#16)]).reg .r1).rotateLeft 8) ∧
    (Instr.sxtbd .r1 = .sxtbd .r1 ∧ (0xFF80#16).extractLsb' 0 8 = ((regs [(.r1, 0x0080#16)]).reg .r1).extractLsb' 0 8 ∧
      ∀ j : Fin 16, 8 ≤ j.val → (0xFF80#16).getLsbD j = ((regs [(.r1, 0x0080#16)]).reg .r1).getLsbD 7) := by decide
theorem witness_JmpAbsoluteCompletes : (Lit.short 0#4).wf = true ∧ (Lit.word 0xFFFF#16).wf = true := by decide
/-- SP = 0, the reset value, and the target of a CALL through SP. -/
theorem witness_CallCompletes :
    (Instr.callAbs (.word 0x0200#16) .r15 = .callAbs (.word 0x0200#16) .r15 ∧ 0x0200#16 = (regs []).reg .r15 + litValue (.word 0x0200#16)) ∧
    (Instr.callRel 0x100#9 = .callRel 0x100#9 ∧ 0xFF00#16 = BitVec.ofInt 16 (((regs []).pc.toNat : Int) + (0x100#9).toInt)) ∧
    (regs []).wordWritable ((regs []).reg .r15 - 2#16) = true := by decide
theorem witness_RetCompletes : (regs [(.r15, 0xFFFF#16)]).wordReadable ((regs [(.r15, 0xFFFF#16)]).reg .r15) = true ∧
    (regs [(.r15, 0xFFFF#16)]).wordPlain ((regs [(.r15, 0xFFFF#16)]).reg .r15) = true := by decide
theorem witness_PushPopComplete : (regs []).wordWritable ((regs []).reg .r15 - 2#16) = true ∧
    (regs [(.r15, 0xFFFF#16)]).wordReadable ((regs [(.r15, 0xFFFF#16)]).reg .r15) = true ∧
    (regs [(.r15, 0xFFFF#16)]).wordPlain ((regs [(.r15, 0xFFFF#16)]).reg .r15) = true ∧ Reg.r0 ≠ .r15 := by decide
theorem witness_NopAndReads : ∃ t, exec .clrdiverr ((regs []).setDivError true) = .next t ∧
    ((regs []).setDivError true).flags.divError = true ∧ t.flags.divError = false := ⟨_, rfl, rfl, rfl⟩
theorem witness_GetflagsCompletes : defaultConfig.clash = .firstListed := rfl
theorem witness_SpecialCompletes : defaultConfig.getpcOffset = .two ∧
    ({ defaultConfig with getpcOffset := .four } : Config).getpcOffset = .four := by decide
theorem witness_InterruptAddressMoves : (Lit.short 0#4).wf = true ∧ (Lit.word 0x0100#16).wf = true ∧
    defaultConfig.extra = [] ∧ (regs []).flags.interrupt = false := by decide
theorem witness_SoftwareInterruptCompletes :
    (Instr.intR .r1 = .intR .r1 ∧ 7#16 = (regs [(.r1, 7#16)]).reg .r1) ∧
    (Instr.intL (.short 0#4) = .intL (.short 0#4) ∧ 0#16 = litValue (.short 0#4)) ∧
    ((regs [(.r1, 7#16)]).setIa 0xFFFF#16).ia ≠ 0#16 ∧ ((regs [(.r1, 7#16)]).setIa 0xFFFF#16).flags.interrupt = false ∧
    ((regs [(.r1, 7#16)]).setIa 0xFFFF#16).entryWritable = true ∧ (regs []).ia = 0#16 ∧
    ((regs []).setInterrupt true).flags.interrupt = true := by decide
/-- The stack at the top of the space: readable words, an entry and the state it leaves, and the one change of IACQ. -/
theorem witness_ReturnFromInterrupt :
    (regs [(.r15, 0xFFFC#16)]).wordReadable ((regs [(.r15, 0xFFFC#16)]).reg .r15) = true ∧
    (regs [(.r15, 0xFFFC#16)]).wordReadable ((regs [(.r15, 0xFFFC#16)]).reg .r15 + 2#16) = true ∧
    (regs [(.r15, 0xFFFC#16)]).wordPlain ((regs [(.r15, 0xFFFC#16)]).reg .r15 + 2#16) = true ∧
    (regs []).wordRam ((regs []).reg .r15 - 2#16) = true ∧ (regs []).wordRam ((regs []).reg .r15 - 4#16) = true ∧
    (∃ t u : State, interruptEntry 5#16 ((regs []).setIa 0x0100#16) = .next t ∧ u.reg .r15 = t.reg .r15 ∧ u.cfg = t.cfg ∧
      u.word (t.reg .r15) = t.word (t.reg .r15) ∧ u.word (t.reg .r15 + 2#16) = t.word (t.reg .r15 + 2#16) ∧ u.ia ≠ 0#16) ∧
    ∃ t : State, exec .rfi ((loadWord (loadWord (regs []) 0#16 0#16) 2#16 0#16).setInterrupt true) = .next t ∧
      ((loadWord (loadWord (regs []) 0#16 0#16) 2#16 0#16).setInterrupt true).iacq = true ∧ t.iacq = false :=
  ⟨by decide, by decide, by decide, by decide, by decide, ⟨_, _, rfl, rfl, rfl, rfl, rfl, by decide⟩, ⟨_, rfl, rfl, rfl⟩⟩
theorem witness_HardwareInterruptEntered :
    ({ (regs []).setIa 1#16 with inputs := [⟨true, 0xFFFF#16⟩] } : State).asleep = false ∧
    ({ (regs []).setIa 1#16 with inputs := [⟨true, 0xFFFF#16⟩] } : State).ia ≠ 0#16 ∧
    ({ (regs []).setIa 1#16 with inputs := [⟨true, 0xFFFF#16⟩] } : State).flags.interrupt = false ∧
    ({ (regs []).setIa 1#16 with inputs := [⟨true, 0xFFFF#16⟩] } : State).pins.intLow = true ∧
    ({ (regs []).setIa 1#16 with inputs := [⟨true, 0xFFFF#16⟩] } : State).entryWritable = true := by decide
/-- Asleep with the line high; low and acceptable; low and not acceptable, under either `SLEEP_WAKE`. -/
theorem witness_SleepingStep :
    ((regs []).setAsleep true).asleep = true ∧
    ({ (regs []).setAsleep true with inputs := [⟨false, 0#16⟩] } : State).pins.intLow = false ∧
    ({ (regs []).setAsleep true with inputs := [⟨true, 0#16⟩] } : State).pins.intLow = true ∧
    canAccept (((regs []).setIa 1#16).setAsleep true) = true ∧ (((regs []).setIa 1#16).setAsleep true).entryWritable = true ∧
    canAccept ((regs []).setAsleep true) = false ∧ defaultConfig.sleepWake = .onlyWhenTaken ∧
    ({ defaultConfig with sleepWake := .anyIntLine } : Config).sleepWake = .anyIntLine := by decide
/-- Asleep with interrupts disabled, and asleep inside a handler. -/
theorem witness_SleepForGood : ((regs []).setAsleep true).sleepsForGood = true ∧
    ((((regs []).setIa 1#16).setInterrupt true).setAsleep true).sleepsForGood = true := by decide
theorem witness_InServiceIgnoresIntLine : canAccept (regs []) = false ∧ (regs []).asleep = false ∧
    canAccept ((((regs []).setIa 1#16).setInterrupt true).setAsleep true) = false ∧
    ((((regs []).setIa 1#16).setInterrupt true).setAsleep true).cfg.sleepWake = .onlyWhenTaken := by decide
theorem witness_IoCompletes :
    (∀ v : Word, (fun v : Word => v) v = v) ∧ defaultConfig.ioDataWidth = .sixteen ∧
    (∀ v : Word, (fun v : Word => v &&& 0x00FF#16) v = v &&& 0x00FF#16) ∧
    ({ defaultConfig with ioDataWidth := .eight } : Config).ioDataWidth = .eight ∧
    (Instr.inpR .r2 .r1 = .inpR .r2 .r1 ∧ 0xFFFF#16 = (regs [(.r2, 0xFFFF#16)]).reg .r2) ∧
    (Instr.inpL (.short 3#4) .r1 = .inpL (.short 3#4) .r1 ∧ 3#16 = litValue (.short 3#4)) ∧
    (Instr.outR .r2 .r1 = .outR .r2 .r1 ∧ 0#16 = (regs []).reg .r2) ∧
    (Instr.outL (.word 0x0100#16) .r1 = .outL (.word 0x0100#16) .r1 ∧ 0x0100#16 = litValue (.word 0x0100#16)) :=
  ⟨fun _ => rfl, rfl, fun _ => rfl, rfl, by decide, by decide, by decide, by decide⟩
/-- An instruction of one word whose literal-like field is a register, and one of two words at the end of the space. -/
theorem witness_StepRunsDecoded :
    (placed (regs []) 0x0010#16 0x40F1#16 0#16).asleep = false ∧
    (canAccept (placed (regs []) 0x0010#16 0x40F1#16 0#16) && (placed (regs []) 0x0010#16 0x40F1#16 0#16).pins.intLow) = false ∧
    (placed (regs []) 0x0010#16 0x40F1#16 0#16).wordPlain 0x0010#16 = true ∧
    reads defaultConfig ((placed (regs []) 0x0010#16 0x40F1#16 0#16).word 0x0010#16)
      ((placed (regs []) 0x0010#16 0x40F1#16 0#16).word 0x0012#16) (.addR .r15 .r1) = true ∧
    (placed (regs []) 0xFFFE#16 0x5AF1#16 0x1234#16).wordPlain 0xFFFE#16 = true ∧
    (Instr.setL (.word 0x1234#16) .r1).words = 2 ∧
    (placed (regs []) 0xFFFE#16 0x5AF1#16 0x1234#16).wordPlain (0xFFFE#16 + 2#16) = true ∧
    reads defaultConfig ((placed (regs []) 0xFFFE#16 0x5AF1#16 0x1234#16).word 0xFFFE#16)
      ((placed (regs []) 0xFFFE#16 0x5AF1#16 0x1234#16).word 0x0000#16) (.setL (.word 0x1234#16) .r1) = true := by decide
/-- A plain instruction, and a shadowed one that `EXTRA_OPCODES` gives an opcode. -/
theorem witness_DecodeOfEncode :
    defaultConfig.valid = true ∧ (Instr.addL (.word 0xFFFF#16) .r1).wf = true ∧
    encodeOctets defaultConfig (.addL (.word 0xFFFF#16) .r1) = some [0xF1#8, 0x41#8, 0xFF#8, 0xFF#8] ∧
    ({ laterListed with extra := [⟨.twoParam 0x7D#8, .mulR⟩] } : Config).valid = true ∧ (Instr.mulR .r2 .r1).wf = true ∧
    encodeOctets { laterListed with extra := [⟨.twoParam 0x7D#8, .mulR⟩] } (.mulR .r2 .r1) = some [0x21#8, 0x7D#8] ∧
    ({ defaultConfig with extra := everyFormat } : Config).valid = true ∧
    encodeOctets { defaultConfig with extra := everyFormat } (.inpL (.short 10#4) .r3) = some [0xA3#8, 0x21#8] ∧
    encodeOctets { defaultConfig with extra := everyFormat } (.setyR .r5) = some [0x75#8, 0x10#8] ∧
    encodeOctets { defaultConfig with extra := everyFormat } (.bbits .r1 .r2) = some [0x12#8, 0x0A#8] ∧
    (Instr.unassigned 0x0005#16).wf = true ∧ encodeOctets defaultConfig (.unassigned 0x0005#16) = some [0x05#8, 0x00#8] := by decide
theorem witness_EncodeOfDecode : defaultConfig.extra = [] ∧
    decode defaultConfig 0xFFFF#16 0#16 = .ok (.storebR .r15 .r15 .r15) ∧
    decode defaultConfig 0x41F0#16 0xFFFF#16 = .ok (.addL (.word 0xFFFF#16) .r0) := ⟨rfl, rfl, rfl⟩
theorem witness_DecodeTotal : defaultConfig.extra = [] ∧ defaultConfig.clash ≠ .refuse ∧
    lineless 0x7DFF#16 = true ∧ lineless 0x0005#16 = true ∧ 0x3FFF#16 = 0x3#4 ++ 0xFFF#12 := by decide
theorem witness_ClashPolicies : defaultConfig.extra = [] ∧
    decodeFirst { defaultConfig with extra := everyFormat } 0x1005#16 = .ok (.setyR .r5) ∧
    ClashPolicy.firstListed.keeps ClashForm.setyR.isFirst = false ∧
    decodeFirst defaultConfig 0x57FF#16 = .ok (.divL (.word 0#16) .r15) ∧ (Instr.divL (.word 0#16) .r15).clashForm? = some .divL ∧
    decodeFirst defaultConfig 0x207F#16 = .ok (.getflags .r15) ∧ (Instr.getflags .r15).clashForm? = some .getflags ∧
    (placed { regs [] with cfg := { defaultConfig with clash := .refuse } } 0x100#16 0x5200#16 0#16).asleep = false ∧
    (canAccept (placed { regs [] with cfg := { defaultConfig with clash := .refuse } } 0x100#16 0x5200#16 0#16) &&
      (placed { regs [] with cfg := { defaultConfig with clash := .refuse } } 0x100#16 0x5200#16 0#16).pins.intLow) = false ∧
    (placed { regs [] with cfg := { defaultConfig with clash := .refuse } } 0x100#16 0x5200#16 0#16).wordPlain 0x100#16 = true ∧
    decodeFirst { defaultConfig with clash := .refuse }
      ((placed { regs [] with cfg := { defaultConfig with clash := .refuse } } 0x100#16 0x5200#16 0#16).word 0x100#16) =
      .error (.clash 0x5200#16) := ⟨rfl, rfl, rfl, rfl, rfl, rfl, rfl, rfl, rfl, rfl, rfl⟩
/-- The word that a skip chain meets, reserved and unassigned, first of all and after a conditional of two words, and a clashing one. -/
theorem witness_IllegalWordsRefused :
    SkipsOver (placed (regs []) 0x100#16 0x3FFF#16 0#16) [] 0x100#16 0x100#16 ∧
    SkipsOver (loadWord (placed (regs []) 0xFFFE#16 0x5DF1#16 0xBEEF#16) 2#16 0x0005#16) [.beqL (.word 0#16) .r1] 0xFFFE#16 2#16 ∧
    (placed (regs []) 0x100#16 0x3FFF#16 0#16).wordPlain 0x100#16 = true ∧
    decodeFirst defaultConfig ((placed (regs []) 0x100#16 0x3FFF#16 0#16).word 0x100#16) = .ok (.reserved 0xFFF#12) ∧
    decodeFirst defaultConfig ((loadWord (placed (regs []) 0xFFFE#16 0x5DF1#16 0xBEEF#16) 2#16 0x0005#16).word 2#16) =
      .ok (.unassigned 0x0005#16) ∧
    SkipsOver (placed { regs [] with cfg := { defaultConfig with clash := .refuse } } 0x100#16 0x0008#16 0x207F#16)
      [.bovf] 0x100#16 0x102#16 ∧
    decodeFirst { defaultConfig with clash := .refuse }
      ((placed { regs [] with cfg := { defaultConfig with clash := .refuse } } 0x100#16 0x0008#16 0x207F#16).word 0x102#16) =
      .error (.clash 0x207F#16) :=
  ⟨rfl, ⟨rfl, rfl, rfl, rfl⟩, rfl, rfl, rfl, ⟨rfl, rfl, rfl, rfl⟩, rfl⟩
/-- Each flag changed by an instruction that may: OF and CF by ADD, CF by SLL, DE by DIV and CLRDIVERR, IF by INT and RFI. -/
theorem witness_FlagWriters :
    ends (exec (.addR .r1 .r1) (regs [(.r1, 0x8000#16)])) (fun t => flagsOf t == (true, true, false, false)) = true ∧
    ends (exec (.sllL (.short 1#4) .r1) (regs [(.r1, 0x8000#16)])) (fun t => flagsOf t == (false, true, false, false)) = true ∧
    ends (exec (.divR .r0 .r1) (regs [])) (fun t => flagsOf t == (false, false, true, false)) = true ∧
    ends (exec .clrdiverr ((regs []).setDivError true)) (fun t => flagsOf t == (false, false, false, false)) = true ∧
    ends (exec (.intR .r1) ((regs []).setIa 1#16)) (fun t => flagsOf t == (false, false, false, true)) = true ∧
    ends (exec .rfi ((loadWord (loadWord (regs []) 0#16 0#16) 2#16 0#16).setInterrupt true))
      (fun t => flagsOf t == (false, false, false, false)) = true := by decide
theorem witness_SpecialWriters :
    ends (exec (.setyL (.short 1#4)) (regs [])) (fun t => t.y != (regs []).y) = true ∧
    ends (exec (.setiaL (.short 1#4)) (regs [])) (fun t => t.ia != (regs []).ia) = true ∧
    ends (exec .sleep (regs [])) (fun t => t.asleep != (regs []).asleep) = true := by decide
/-- NOP, and a PUSH on a stack in a device region. -/
theorem witness_MemoryWriters : (∃ t, exec .nop (regs []) = .next t) ∧ writesRam .nop = false ∧ isOut .nop = false ∧ isInp .nop = false ∧
    (∃ t, exec (.push .r1) { regs [(.r1, 0x1234#16), (.r15, 0x4002#16)] with cfg := mapped } = .next t ∧
      t.outputs = [.mem 0x4000#16 0x34#8, .mem 0x4001#16 0x12#8]) ∧ isOut (.push .r1) = false :=
  ⟨⟨_, rfl⟩, rfl, rfl, rfl, ⟨_, rfl, rfl⟩, rfl⟩
/-- A step that stores into RAM over the end of the space and one that stores to a device. -/
theorem witness_StepWritesItsOctets :
    (∃ t, step (placed (regs [(.r1, 0xFFFF#16)]) 0x100#16 0xD012#16 0#16) = .next t) ∧
    stepOctets (placed (regs [(.r1, 0xFFFF#16)]) 0x100#16 0xD012#16 0#16) = [0xFFFF#16, 0x0000#16] ∧
    (∃ t, step (placed { regs [] with cfg := mapped } 0x100#16 0xE0F2#16 0x4000#16) = .next t ∧ t.outputs = [.mem 0x4000#16 0#8]) ∧
    ({ regs [] with cfg := mapped } : State).kindAt 0x4000#16 = .device :=
  ⟨⟨_, rfl⟩, by decide, ⟨_, rfl, rfl⟩, rfl⟩
/-- A run under each convention: SLEEP, `JMP -2` (in RAM and, where it does not count, in a device region), a byte stored in RAM at the agreed address, OUT to the agreed port. -/
theorem witness_RunEnds :
    runEnded 1 (placed (regs []) 0x100#16 0x0001#16 0#16) = true ∧ runEnded 0 (placed (regs []) 0x100#16 0x0001#16 0#16) = false ∧
    runEnded 0 (placed { regs [] with cfg := { defaultConfig with halt := .jumpToSelf } } 0x100#16 0x13FE#16 0#16) = true ∧
    runEnded 0 (placed { regs [] with cfg := { mapped with halt := .jumpToSelf } } 0x4000#16 0x13FE#16 0#16) = false ∧
    runEnded 1 (placed { regs [] with cfg := { defaultConfig with halt := .writeTo 0x1234#16 } } 0x100#16 0xE0F2#16 0x1234#16) = true ∧
    runEnded 1 (placed { regs [] with cfg := { defaultConfig with halt := .writeTo 0x1234#16 } } 0x100#16 0xE0F2#16 0x1235#16) = false ∧
    runEnded 1 (placed { regs [] with cfg := { laterListed with halt := .outTo 3#8 } } 0x100#16 0x5731#16 0#16) = true := by decide

end Sys2Proof.Tests
end

/-! The statement `NopAndReads`: what the shared operations do to FLAGS, and from it that only CLRDIVERR clears DE. -/

namespace Sys2Proof.Machine

/-! ### FLAGS after each shared operation -/

theorem writeOctet_flags {s t : State} {a : Word} {v : Byte} (h : writeOctet s a v = .next t) : t.flags = s.flags := by
  obtain ⟨_, rfl⟩ := writeOctet_eq_next s t a v h
  simp

theorem writeWord_flags {s t : State} {a v : Word} (h : writeWord s a v = .next t) : t.flags = s.flags := by
  obtain ⟨_, rfl⟩ := writeWord_eq_next s t a v h
  simp

theorem push_flags {s t : State} {v : Word} (h : push v s = .next t) : t.flags = s.flags := by
  obtain ⟨_, rfl⟩ := push_eq_next s t v h
  simp

theorem pop_flags {s : State} {k : Nat} {p : Word × State} (h : pop k s = .next p) : p.2.flags = s.flags := by
  rw [(pop_eq_next s k p h).2, State.flags_setReg]

theorem ioRead_flags (port : Byte) (s : State) : (ioRead port s).2.flags = s.flags := by
  unfold ioRead
  split <;> rfl

theorem interruptEntry_flags {s t : State} {m : Word} (h : interruptEntry m s = .next t) :
    t.flags = { s.flags with interrupt := true } := by
  obtain ⟨s1, s2, h1, h2, rfl⟩ := interruptEntry_eq_next s t m h
  simp [push_flags h2, push_flags h1]

theorem returnFromInterrupt_flags {s t : State} (h : returnFromInterrupt s = .next t) :
    t.flags = { s.flags with interrupt := false } := by
  obtain ⟨p, q, hp, hq, rfl⟩ := returnFromInterrupt_eq_next s t h
  simp [pop_flags hq, pop_flags hp]

theorem conditional_flags {test : Bool} {s t : State} (h : conditional test s = .next t) : t.flags = s.flags := by
  obtain ⟨_, rfl⟩ | ⟨_, pc, _, rfl⟩ := conditional_eq_next test s t h
  · rfl
  · rfl

/-- The division error leaves DE set, whether or not an interrupt is entered (R245, R247). -/
theorem divisionError_divError {s t : State} (h : divisionError s = .next t) : t.flags.divError = true := by
  obtain ⟨_, he⟩ | ⟨_, rfl⟩ := divisionError_eq_next s t h
  · rw [interruptEntry_flags he]; rfl
  · rfl

theorem softwareInterrupt_divError {s t : State} {m : Word} (h : softwareInterrupt m s = .next t) :
    t.flags.divError = s.flags.divError := by
  obtain ⟨_, he⟩ | ⟨_, rfl⟩ := softwareInterrupt_eq_next s t m h
  · rw [interruptEntry_flags he]
  · rfl

/-- A word that is no instruction has no next state (R105). -/
theorem illegalWordStop_ne_next (w : Word) (s t : State) : illegalWordStop w s ≠ .next t := by
  unfold illegalWordStop
  split
  nofun

/-! ### DE stays set -/

/-- An operation made from `s` does not clear DE: where it answers a state and DE was set, DE is still set. -/
def KeepsDivError (s : State) (x : Result State) : Prop :=
  ∀ t, x = .next t → s.flags.divError = true → t.flags.divError = true

namespace KeepsDivError

variable {s : State}

theorem of_next {t : State} (h : t.flags.divError = s.flags.divError) : KeepsDivError s (.next t) := by
  rintro _ ⟨⟩ hs
  rw [h, hs]

theorem of_flags {x : Result State} (h : ∀ t, x = .next t → t.flags = s.flags) : KeepsDivError s x := by
  intro t ht hs
  rw [h t ht, hs]

/-- An operation that goes on, with a value read, to states whose DE is that of `s`. -/
theorem of_andThen {α : Type} {x : Result α} {f : α → State}
    (h : ∀ a, x = .next a → (f a).flags = s.flags) : KeepsDivError s (andThen x fun a => .next (f a)) := by
  refine of_flags fun t ht => ?_
  obtain ⟨a, ha, hf⟩ := (andThen_eq_next _ _ _).mp ht
  cases hf
  exact h a ha

theorem loadAt (a : Word) (rc : Reg) : KeepsDivError s (loadAt a rc s) := of_andThen fun _ _ => rfl

theorem loadbAt (a : Word) (rc : Reg) : KeepsDivError s (loadbAt a rc s) := of_andThen fun _ _ => rfl

theorem storeAt (a : Word) (rc : Reg) : KeepsDivError s (storeAt a rc s) := of_flags fun _ => writeWord_flags

theorem storebAt (a : Word) (rc : Reg) : KeepsDivError s (storebAt a rc s) := of_flags fun _ => writeOctet_flags

theorem inpFrom (b : Word) (rc : Reg) : KeepsDivError s (inpFrom b rc s) :=
  of_next (congrArg Flags.divError (ioRead_flags (portOf b) s))

theorem callTo (a : Word) : KeepsDivError s (callTo a s) := of_andThen fun _ => push_flags

theorem push (v : Word) : KeepsDivError s (push v s) := of_flags fun _ => push_flags

theorem execPop (rc : Reg) : KeepsDivError s (execPop rc s) := of_andThen fun _ => pop_flags

theorem execRet : KeepsDivError s (execRet s) := of_andThen fun _ => pop_flags

theorem conditional (test : Bool) : KeepsDivError s (conditional test s) := of_flags fun _ => conditional_flags

theorem softwareInterrupt (m : Word) : KeepsDivError s (softwareInterrupt m s) :=
  fun _ ht hs => (softwareInterrupt_divError ht).trans hs

theorem returnFromInterrupt : KeepsDivError s (returnFromInterrupt s) := by
  intro t ht hs
  rw [returnFromInterrupt_flags ht]
  exact hs

/-- DIV sets DE for a divisor of 0 and leaves FLAGS alone for any other (R152). -/
theorem divBy (rc : Reg) (b : Word) : KeepsDivError s (divBy rc b s) := by
  unfold Machine.divBy
  split
  · exact fun _ ht _ => divisionError_divError ht
  · exact of_next rfl

theorem illegalWordStop (w : Word) : KeepsDivError s (illegalWordStop w s) :=
  fun t ht => absurd ht (illegalWordStop_ne_next w s t)

end KeepsDivError

/-- Every instruction but CLRDIVERR keeps DE set (R30, R33, R211). -/
theorem exec_keepsDivError (i : Instr) (s : State) (hi : i ≠ .clrdiverr) : KeepsDivError s (exec i s) := by
  cases i with
  | clrdiverr => exact absurd rfl hi
  | loadL | loadR => exact .loadAt _ _
  | loadbL | loadbR => exact .loadbAt _ _
  | storeL | storeR => exact .storeAt _ _
  | storebL | storebR => exact .storebAt _ _
  | divR | divL => exact .divBy _ _
  | inpR | inpL => exact .inpFrom _ _
  | callAbs | callRel => exact .callTo _
  | push => exact .push _
  | pop => exact .execPop _
  | ret => exact .execRet
  | intR | intL => exact .softwareInterrupt _
  | rfi => exact .returnFromInterrupt
  | reserved | unassigned => exact .illegalWordStop _
  | beqR | beqL | bneqR | bneqL | bgR | bgL | bgeR | bgeL | bugR | bugL | bugeR | bugeL | bbits | bclear | bovf | bocf =>
    exact .conditional _
  | addR | addL | addcR | subR | subL | subcR | subcL | sllR | sllL | srlR | srlL | sraR | sraL | mulR | mulL =>
    exact .of_next rfl
  | andR | orR | xorR | notR | negR | rotlR | rotlL | rotrR | rotrL | swp | cpy | setL | xchg | sxtbd | getpc | getflags
  | gety | getia =>
    exact .of_next rfl
  | outR | outL | jmpAbs | jmpRel | setyR | setyL | setiaR | setiaL | nop | sleep => exact .of_next rfl

/-! ### FLAGS as a word -/

/-- FLAGS as a number (R30). -/
theorem flagsWord_toNat (f : Flags) :
    (flagsWord f).toNat = 8 * f.overflow.toNat + 4 * f.carry.toNat + 2 * f.divError.toNat + f.interrupt.toNat := by
  simp only [flagsWord, toNat_append, BitVec.toNat_ofBool, BitVec.toNat_ofNat]
  omega

theorem flagsWord_toNat_le (f : Flags) : (flagsWord f).toNat ≤ 15 := by
  rw [flagsWord_toNat]
  have := f.overflow.toNat_le
  have := f.carry.toNat_le
  have := f.divError.toNat_le
  have := f.interrupt.toNat_le
  omega

/-- Bits 15 to 4 of FLAGS read 0 (R35). -/
theorem flagsWord_high (f : Flags) : (flagsWord f).extractLsb' 4 12 = 0#12 := by
  apply BitVec.eq_of_toNat_eq
  have := flagsWord_toNat_le f
  simp only [BitVec.extractLsb'_toNat, Nat.shiftRight_eq_div_pow, BitVec.toNat_ofNat]
  omega

/-- A register that takes FLAGS reads at most 15, also R0, which discards it (R21, R35). -/
theorem toNat_reg_setReg_flagsWord_le (s : State) (rc : Reg) (f : Flags) :
    ((s.setReg rc (flagsWord f)).reg rc).toNat ≤ 15 := by
  by_cases h : rc = .r0
  · subst h; exact Nat.zero_le _
  · rw [State.reg_setReg_self s rc _ h]
    exact flagsWord_toNat_le f

end Sys2Proof.Machine

namespace Sys2Proof

/-- 0x209 with a register field is GETY (R97, R210). -/
theorem decodeFirst_gety (c : Config) (rc : Reg) : decodeFirst c (word1P 0x209#12 rc.code) = .ok (.gety rc) := by
  refine decodeFirst_of_listed c _ _ ?_ nofun
  rw [decodeListed_1P _ _ _ rfl rfl rfl]
  simp [decode1P]

namespace Machine

/-- Settles O38: each meaning is read off `exec`, and DE is cleared by no instruction but CLRDIVERR because every shared
operation keeps it set. -/
theorem nopAndReads : Obligations.NopAndReads := by
  refine ⟨fun c rc => ⟨?_, decodeFirst_gety c rc, ?_⟩, fun s rc => ⟨rfl, ?_, rfl, ?_, ?_, rfl, rfl, ?_⟩⟩
  · exact decodeFirst_of_listed c _ .nop rfl nofun
  · exact decodeFirst_of_listed c _ .clrdiverr rfl nofun
  · exact ⟨_, rfl, onlyReg_setReg s rc s.y⟩
  · exact flagsWord_high s.flags
  · exact ⟨_, rfl, toNat_reg_setReg_flagsWord_le s rc s.flags⟩
  · intro i t ht hset hcleared
    by_contra hi
    have hkept : t.flags.divError = true := exec_keepsDivError i s hi t ht hset
    simp [hcleared] at hkept

end Machine

end Sys2Proof

/-! The statement `OctetAccess`: RAM can be read and written, and an octet put into RAM changes nothing outside RAM. -/

namespace Sys2Proof.Machine

theorem plain_of_isRam {s : State} {a : Word} (h : s.isRam a = true) : s.plain a = true :=
  Bool.or_eq_true_iff.mpr (.inl h)

theorem writable_of_isRam {s : State} {a : Word} (h : s.isRam a = true) : s.writable a = true :=
  Bool.or_eq_true_iff.mpr (.inl h)

theorem sameMem_putOctet (s : State) (a : Word) (b : Byte) : SameMem s (s.putOctet a b) [a] := by
  intro x hx
  exact octet_putOctet_of_ne s a x b (List.ne_of_not_mem_cons hx)

theorem sameRegs_putOctet (s : State) (a : Word) (b : Byte) : SameRegs s (s.putOctet a b) [] :=
  fun q _ => State.reg_putOctet s a b q

/-- An octet put into RAM is not put out to a device, and only RAM changes (R54, R62). -/
theorem sameOther_putOctet_of_isRam {s : State} {a : Word} (b : Byte) (h : s.isRam a = true) :
    SameOther s (s.putOctet a b) := by
  rw [putOctet_ram s a b h]
  exact ⟨⟨rfl, rfl, rfl⟩, rfl, rfl, rfl, rfl, rfl⟩

/-- Settles O7: at a RAM address the read gives what stands there, and the write is `putOctet`, whose effect on RAM and
on everything else the lemmas above and `octet_putOctet_self` give. -/
theorem octetAccess : Obligations.OctetAccess := by
  intro s k a v hram
  have hread : readOctet s k a = .next (s.octet a) := readOctet_plain s k a (plain_of_isRam hram)
  have hwrite : writeOctet s a v = .next (s.putOctet a v) := writeOctet_of_writable s a v (writable_of_isRam hram)
  exact ⟨hread, s.putOctet a v, hwrite, octet_putOctet_self s a v hram, sameMem_putOctet s a v, sameRegs_putOctet s a v,
    State.pc_putOctet s a v, State.flags_putOctet s a v, sameOther_putOctet_of_isRam v hram⟩

end Sys2Proof.Machine

/-! The statements `EqualityConditionals`, `OrderConditionals` and `FlagConditionals`: how a word of format 2P decodes, and
when a conditional runs the next instruction. -/

namespace Sys2Proof

/-! ### Words of format 2P -/

/-- Putting the literal word back where its field announces one gives the literal again (R90). -/
theorem Lit.fill_ofField_field {l : Lit} (v : Word) (h : l.wf = true) :
    (Lit.ofField l.field).fill (l.words.headD v) = l := by
  cases l with
  | short f => rw [Lit.field, Lit.ofField_short f h, Lit.fill]
  | word w => rfl

/-- An opcode with `w[15:14] = 01` has `w[15] = 0` (R81). -/
theorem opcode2P_top {op : BitVec 8} (h : op.extractLsb' 6 2 = 1#2) : op.extractLsb' 7 1 = 0#1 := by
  revert op; decide

/-- A word of format 2P that has a line decodes by it (R81, R96). -/
theorem decodeFirst_2P {c : Config} {op : BitVec 8} {a b : BitVec 4} {i : Instr} (hop : op.extractLsb' 6 2 = 1#2)
    (hline : decode2P c.clash (word2P op a b) = .ok i) (hu : ∀ v, i ≠ .unassigned v) :
    decodeFirst c (word2P op a b) = .ok i := by
  refine decodeFirst_of_listed c _ i ?_ hu
  rw [decodeListed_2P c.clash op a b (opcode2P_top hop) hop, hline]

/-- A line of format 2P with a literal operand reads the literal whole: `mk` is its constructor, REG3 given (R83, R90). -/
theorem decode_2P_literal {c : Config} {op : BitVec 8} {l : Lit} {b : BitVec 4} {v : Word} (mk : Lit → Instr)
    (hl : l.wf = true) (hop : op.extractLsb' 6 2 = 1#2)
    (hline : decode2P c.clash (word2P op l.field b) = .ok (mk (Lit.ofField l.field)))
    (hu : ∀ k u, mk k ≠ .unassigned u) (hfill : ∀ k u, (mk k).withLit u = mk (k.fill u)) :
    decode c (word2P op l.field b) (l.words.headD v) = .ok (mk l) := by
  unfold decode
  rw [decodeFirst_2P hop hline (hu _)]
  simp only [hfill, Lit.fill_ofField_field v hl]

/-- With `EXTRA_OPCODES` empty a word of format 2P without a line is unassigned (R103). -/
theorem decodeFirst_2P_lineless {c : Config} {op : BitVec 8} {a b : BitVec 4} (hop : op.extractLsb' 6 2 = 1#2)
    (hextra : c.extra = []) (hline : decode2P c.clash (word2P op a b) = .ok (.unassigned (word2P op a b))) :
    decodeFirst c (word2P op a b) = .ok (.unassigned (word2P op a b)) := by
  rw [decodeFirst_eq_listed c _ hextra, decodeListed_2P c.clash op a b (opcode2P_top hop) hop, hline]

namespace Machine

/-! ### The two outcomes of a conditional (R160) -/

theorem conditional_true (s : State) : conditional true s = .next s := rfl

theorem conditional_false (s : State) : conditional false s = skipChain s := rfl

/-- An instruction that is a conditional on a Boolean runs the next one exactly where the Boolean is true (R160). -/
theorem runsNextIf_of_conditional {test : Prop} {b : Bool} {i : Instr} {s : State} (hexec : exec i s = conditional b s)
    (hb : b = true ↔ test) : RunsNextIf test i s := by
  unfold RunsNextIf
  rw [hexec, ← hb]
  cases b with
  | true => exact ⟨fun _ => conditional_true s, fun h => absurd rfl h⟩
  | false => exact ⟨nofun, fun _ => conditional_false s⟩

section
variable {s : State} {a b : Word} {i : Instr}

/-- Equality of all 16 bits (R163). -/
theorem runsNextIf_eq (h : exec i s = conditional (a == b) s) : RunsNextIf (a = b) i s :=
  runsNextIf_of_conditional h beq_iff_eq

/-- Its negation (R164). -/
theorem runsNextIf_ne (h : exec i s = conditional (a != b) s) : RunsNextIf (a ≠ b) i s :=
  runsNextIf_of_conditional h bne_iff_ne

/-! The model compares the numbers that the words stand for; the statements use the orders of the words (R165 to R168). -/

theorem runsNextIf_slt (h : exec i s = conditional (decide (a.toInt > b.toInt)) s) : RunsNextIf (b.slt a = true) i s :=
  runsNextIf_of_conditional h (decide_eq_true_iff.trans BitVec.slt_iff_toInt_lt.symm)

theorem runsNextIf_sle (h : exec i s = conditional (decide (a.toInt ≥ b.toInt)) s) : RunsNextIf (b.sle a = true) i s :=
  runsNextIf_of_conditional h (decide_eq_true_iff.trans BitVec.sle_iff_toInt_le.symm)

theorem runsNextIf_ult (h : exec i s = conditional (decide (a.toNat > b.toNat)) s) : RunsNextIf (b.ult a = true) i s :=
  runsNextIf_of_conditional h (decide_eq_true_iff.trans BitVec.ult_iff_lt.symm)

theorem runsNextIf_ule (h : exec i s = conditional (decide (a.toNat ≥ b.toNat)) s) : RunsNextIf (b.ule a = true) i s :=
  runsNextIf_of_conditional h (decide_eq_true_iff.trans BitVec.ule_iff_le.symm)

end

/-- Settles O25: each word has its line in format 2P, 0x5C and 0x5E have none, and each meaning is a conditional on the
equality of the operands or on its negation. -/
theorem equalityConditionals : Obligations.EqualityConditionals := by
  refine ⟨fun c rb rc l v hl => ⟨?_, ?_, ?_, ?_, fun hextra => ⟨?_, ?_⟩⟩, fun s rb rc l => ⟨?_, ?_, ?_, ?_⟩⟩
  · exact decodeFirst_2P rfl (by simp [decode2P]) nofun
  · exact decode_2P_literal (.beqL · rc) hl rfl (by simp [decode2P]) nofun fun _ _ => rfl
  · exact decodeFirst_2P rfl (by simp [decode2P]) nofun
  · exact decode_2P_literal (.bneqL · rc) hl rfl (by simp [decode2P]) nofun fun _ _ => rfl
  · exact decodeFirst_2P_lineless rfl hextra (by simp [decode2P])
  · exact decodeFirst_2P_lineless rfl hextra (by simp [decode2P])
  · exact runsNextIf_eq rfl
  · exact runsNextIf_eq rfl
  · exact runsNextIf_ne rfl
  · exact runsNextIf_ne rfl

/-- Settles O26: each word has its line in format 2P, and each meaning is a conditional on the signed or the unsigned
order of the operands, REG3 the greater one. -/
theorem orderConditionals : Obligations.OrderConditionals := by
  refine ⟨fun c rb rc l v hl => ⟨?_, ?_, ?_, ?_, ?_, ?_, ?_, ?_⟩, fun s rb rc l => ⟨?_, ?_, ?_, ?_, ?_, ?_, ?_, ?_⟩⟩
  · exact decodeFirst_2P rfl (by simp [decode2P]) nofun
  · exact decode_2P_literal (.bgL · rc) hl rfl (by simp [decode2P]) nofun fun _ _ => rfl
  · exact decodeFirst_2P rfl (by simp [decode2P]) nofun
  · exact decode_2P_literal (.bgeL · rc) hl rfl (by simp [decode2P]) nofun fun _ _ => rfl
  · exact decodeFirst_2P rfl (by simp [decode2P]) nofun
  · exact decode_2P_literal (.bugL · rc) hl rfl (by simp [decode2P]) nofun fun _ _ => rfl
  · exact decodeFirst_2P rfl (by simp [decode2P]) nofun
  · exact decode_2P_literal (.bugeL · rc) hl rfl (by simp [decode2P]) nofun fun _ _ => rfl
  · exact runsNextIf_slt rfl
  · exact runsNextIf_slt rfl
  · exact runsNextIf_sle rfl
  · exact runsNextIf_sle rfl
  · exact runsNextIf_ult rfl
  · exact runsNextIf_ult rfl
  · exact runsNextIf_ule rfl
  · exact runsNextIf_ule rfl

/-- Settles O28: both words have their line in format 0P, and each meaning is a conditional on the flag itself. -/
theorem flagConditionals : Obligations.FlagConditionals := by
  refine ⟨fun c => ⟨?_, ?_⟩, fun s => ⟨?_, ?_⟩⟩
  · exact decodeFirst_of_listed c _ .bovf rfl nofun
  · exact decodeFirst_of_listed c _ .bocf rfl nofun
  · exact runsNextIf_of_conditional rfl Iff.rfl
  · exact runsNextIf_of_conditional rfl Iff.rfl

end Machine

end Sys2Proof

/-! The statements `SwapCompletes` and `MovesComplete`: how a word of format 1P decodes, and what each instruction of
43_register.md writes. -/

namespace Sys2Proof

/-- An opcode with `w[15:13] = 001` is of no other format (R81). -/
theorem opcode1P_top {op : BitVec 12} (h : op.extractLsb' 9 3 = 1#3) :
    op.extractLsb' 11 1 = 0#1 ∧ op.extractLsb' 10 2 = 0#2 := by
  simp only [← BitVec.toNat_inj, BitVec.extractLsb'_toNat, Nat.shiftRight_eq_div_pow, BitVec.toNat_ofNat] at h ⊢
  omega

/-- A word of format 1P that has a line decodes by it (R81, R97). -/
theorem decodeFirst_1P {c : Config} {op : BitVec 12} {a : BitVec 4} {i : Instr} (hop : op.extractLsb' 9 3 = 1#3)
    (hline : decode1P c.clash (word1P op a) = .ok i) (hu : ∀ v, i ≠ .unassigned v) :
    decodeFirst c (word1P op a) = .ok i := by
  obtain ⟨htop, hform⟩ := opcode1P_top hop
  refine decodeFirst_of_listed c _ i ?_ hu
  rw [decodeListed_1P c.clash op a htop hform hop, hline]

namespace Machine

/-! ### Two registers exchanged (R181) -/

section
variable {s t : State} {rb rc : Reg}

/-- REG2 is written last, so it holds what REG3 held, also where the two are one register. -/
theorem reg_execSwp_reg2 (h : execSwp rb rc s = .next t) :
    t.reg rb = if rb = .r0 then 0#16 else s.reg rc := by
  cases h
  exact (regBecomes_setReg _ rb _).1

/-- REG3 keeps what it was given where REG2 is another register; where they are one, this is `reg_execSwp_reg2`. -/
theorem reg_execSwp_reg3 (h : execSwp rb rc s = .next t) :
    t.reg rc = if rc = .r0 then 0#16 else s.reg rb := by
  by_cases hne : rc = rb
  · subst hne
    exact reg_execSwp_reg2 h
  · cases h
    rw [State.reg_setReg_of_ne _ rb rc _ hne]
    exact (regBecomes_setReg s rc _).1

theorem sameRegs_execSwp (h : execSwp rb rc s = .next t) : SameRegs s t [rb, rc] := by
  cases h
  intro q hq
  simp only [List.mem_cons, List.not_mem_nil, or_false, not_or] at hq
  obtain ⟨hb, hc⟩ := hq
  rw [State.reg_setReg_of_ne _ rb q _ hb, State.reg_setReg_of_ne s rc q _ hc]

end

/-- Settles O31: 0x58 has its line in format 2P, and the registers after the two writes are read off by the lemmas above. -/
theorem swapCompletes : Obligations.SwapCompletes := by
  refine ⟨fun c rb rc => decodeFirst_2P rfl (by simp [decode2P]) nofun, fun s rb rc => ?_⟩
  have hswp : exec (.swp rb rc) s = execSwp rb rc s := rfl
  rw [hswp]
  exact ⟨_, rfl, reg_execSwp_reg3 rfl, reg_execSwp_reg2 rfl, sameRegs_execSwp rfl, rfl, rfl, .refl s _, .refl s⟩

/-! ### The values moved (R183 to R185) -/

/-- A short literal stands for its own number (R90). -/
theorem litValue_short_toNat (v : BitVec 4) : (litValue (.short v)).toNat = v.toNat :=
  BitVec.toNat_setWidth_of_le (by decide)

/-- The bits of XCHG's value: the high byte below, the low byte above (R184). -/
theorem getLsbD_xchgValue (a : Word) (j : Nat) :
    (xchgValue a).getLsbD j = if j < 8 then a.getLsbD (8 + j) else decide (j - 8 < 8) && a.getLsbD (j - 8) := by
  rw [xchgValue, BitVec.getLsbD_append]
  by_cases h : j < 8 <;> simp [h]

/-- Exchanging the two bytes is a rotation by 8 (R184). -/
theorem xchgValue_eq_rotateLeft (a : Word) : xchgValue a = a.rotateLeft 8 := by
  apply BitVec.eq_of_getLsbD_eq
  intro j hj
  rw [getLsbD_xchgValue, BitVec.getLsbD_rotateLeft]
  by_cases h : j < 8
  · simp [h]
  · have hlow : j - 8 < 8 := by omega
    simp [h, hlow, hj]

/-- The bits of SXTBD's value: the low byte, and its sign above it (R185). -/
theorem getLsbD_sxtbdValue (a : Word) {j : Nat} (hj : j < 16) :
    (sxtbdValue a).getLsbD j = if j < 8 then a.getLsbD j else a.getLsbD 7 := by
  rw [sxtbdValue, BitVec.getLsbD_signExtend, BitVec.msb_eq_getLsbD_last]
  by_cases h : j < 8 <;> simp [h, hj]

/-- The low byte and its sign above it determine the word, and SXTBD writes that word (R185). -/
theorem eq_sxtbdValue {v a : Word} (hlow : v.extractLsb' 0 8 = a.extractLsb' 0 8)
    (hhigh : ∀ j : Nat, 8 ≤ j → j < 16 → v.getLsbD j = a.getLsbD 7) : v = sxtbdValue a := by
  apply BitVec.eq_of_getLsbD_eq
  intro j hj
  rw [getLsbD_sxtbdValue a hj]
  by_cases h : j < 8
  · have hbit : (v.extractLsb' 0 8).getLsbD j = (a.extractLsb' 0 8).getLsbD j := by rw [hlow]
    simpa [h] using hbit
  · rw [if_neg h]
    exact hhigh j (by omega) hj

/-- An instruction that assigns a value to REG3 writes nothing else (R180). -/
theorem exists_onlyReg_of_assign {s : State} {i : Instr} {rc : Reg} {v : Word} (h : exec i s = assign rc v s) :
    ∃ t, exec i s = .next t ∧ OnlyReg s t rc v :=
  ⟨s.setReg rc v, h, onlyReg_setReg s rc v⟩

/-- Settles O32: each word has its line in format 2P or 1P, and each meaning assigns the value that the statement gives to
REG3. -/
theorem movesComplete : Obligations.MovesComplete := by
  refine ⟨fun c rb rc l v hl => ⟨?_, ?_, ?_, ?_⟩, fun v w => ⟨litValue_short_toNat v, rfl⟩, fun s rb rc l i v h => ?_⟩
  · exact decodeFirst_2P rfl (by simp [decode2P]) nofun
  · exact decode_2P_literal (.setL · rc) hl rfl (by simp [decode2P]) nofun fun _ _ => rfl
  · exact decodeFirst_1P rfl (by simp [decode1P]) nofun
  · exact decodeFirst_1P rfl (by simp [decode1P]) nofun
  · apply exists_onlyReg_of_assign
    obtain ⟨rfl, rfl⟩ | ⟨rfl, rfl⟩ | ⟨rfl, rfl⟩ | ⟨rfl, hlow, hhigh⟩ := h
    case inl | inr.inl => rfl
    case inr.inr.inl => rw [← xchgValue_eq_rotateLeft]; rfl
    case inr.inr.inr => rw [eq_sxtbdValue hlow hhigh]; rfl

end Machine

end Sys2Proof

/-! The statement `JmpAbsoluteCompletes`: how 0x7E decodes, and what a jump to a computed target changes. -/

namespace Sys2Proof

/-- 0x7E with a literal field and a register field is JMP absolute, its literal word read where there is one (R83, R96,
R191). -/
theorem decode_jmpAbs (c : Config) (rc : Reg) (l : Lit) (v : Word) (hl : l.wf = true) :
    decode c (word2P 0x7E#8 l.field rc.code) (l.words.headD v) = .ok (.jmpAbs l rc) :=
  decode_2P_literal (.jmpAbs · rc) hl rfl (by simp [decode2P]) nofun fun _ _ => rfl

namespace Machine

/-! ### A jump -/

/-- Nothing but PC records a jump: there are no delay slots and no link (R190). -/
theorem sameOther_setPc (s : State) (a : Word) : SameOther s (s.setPc a) := ⟨⟨rfl, rfl, rfl⟩, rfl, rfl, rfl, rfl, rfl⟩

theorem sameRegs_setPc (s : State) (a : Word) : SameRegs s (s.setPc a) [] := fun q _ => State.reg_setPc s a q

theorem sameMem_setPc (s : State) (a : Word) : SameMem s (s.setPc a) [] := fun x _ => State.octet_setPc s a x

/-- The target of an absolute jump as a number: the sum wraps at the end of the space (R191, R193). -/
theorem absTarget_toNat (l : Lit) (rc : Reg) (s : State) :
    (absTarget l rc s).toNat = ((s.reg rc).toNat + (litValue l).toNat) % 2 ^ 16 :=
  BitVec.toNat_add (s.reg rc) (litValue l)

/-- Settles O33: 0x7E has its line in format 2P, and the meaning is a jump to the target, which is a sum of words. -/
theorem jmpAbsoluteCompletes : Obligations.JmpAbsoluteCompletes := by
  refine ⟨decode_jmpAbs, fun s rc l => ?_⟩
  have hjump : exec (.jmpAbs l rc) s = .next (s.setPc (absTarget l rc s)) := rfl
  exact ⟨_, hjump, absTarget_toNat l rc s, sameRegs_setPc s _, State.flags_setPc s _, sameMem_setPc s _,
    sameOther_setPc s _⟩

end Machine

end Sys2Proof

/-! The statement `InterruptAddressMoves`: how 0x20C to 0x20F decode, and what moves between IA and a register change. -/

namespace Sys2Proof

/-- A first word whose literal field announces the literal `l` decodes, with the literal word of `l` after it, to its
instruction with `l` whole, whatever its format: `mk` gives the instruction for a literal (R83, R90). -/
theorem decode_literal {c : Config} {w v : Word} {l : Lit} (mk : Lit → Instr) (hl : l.wf = true)
    (hfirst : decodeFirst c w = .ok (mk (Lit.ofField l.field))) (hfill : ∀ k u, (mk k).withLit u = mk (k.fill u)) :
    decode c w (l.words.headD v) = .ok (mk l) := by
  rw [decode, hfirst]
  simp only [hfill, Lit.fill_ofField_field v hl]

/-- With `EXTRA_OPCODES` empty a word of format 1P decodes as its format says, to `unassigned` too (R81, R103). -/
theorem decodeFirst_1P_of_extra_nil {c : Config} {op : BitVec 12} (a : BitVec 4) (hop : op.extractLsb' 9 3 = 1#3)
    (hextra : c.extra = []) : decodeFirst c (word1P op a) = decode1P c.clash (word1P op a) := by
  obtain ⟨htop, hform⟩ := opcode1P_top hop
  rw [decodeFirst_eq_listed c _ hextra, decodeListed_1P c.clash op a htop hform hop]

namespace Machine

/-- An interrupt can be accepted where they are enabled and none is in service (R241, R242). -/
theorem canAccept_iff (s : State) : canAccept s = true ↔ s.ia ≠ 0#16 ∧ s.flags.interrupt = false := by
  simp [canAccept]

/-- Where no interrupt is in service, the address written to IA alone enables interrupts (R223, R241). -/
theorem canAccept_setIa_iff {s : State} (v : Word) (h : s.flags.interrupt = false) :
    canAccept (s.setIa v) = true ↔ v ≠ 0#16 := by
  rw [canAccept_iff, State.ia_setIa, State.flags_setIa]
  exact and_iff_left h

/-- Settles O41: 0x20C, 0x20D and 0x20F have their line in format 1P and 0x20E has none, GETIA assigns IA to REG3, and
SETIA is `setIa`, which enables interrupts exactly where the address is not 0. -/
theorem interruptAddressMoves : Obligations.InterruptAddressMoves := by
  refine ⟨fun c rc l v hl => ⟨?_, ?_, ?_, fun hextra => ?_⟩, fun s rc l => ⟨?_, rfl, rfl, fun hfree v => ?_⟩⟩
  · exact decodeFirst_1P rfl (by simp [decode1P]) nofun
  · exact decodeFirst_1P rfl (by simp [decode1P]) nofun
  · exact decode_literal .setiaL hl (decodeFirst_1P rfl (by simp [decode1P]) nofun) fun _ _ => rfl
  · rw [decodeFirst_1P_of_extra_nil rc.code rfl hextra]
    simp [decode1P]
  · exact exists_onlyReg_of_assign rfl
  · exact canAccept_setIa_iff v hfree

end Machine

end Sys2Proof

/-! What a step puts into RAM and out to devices, said once for every shared operation and every instruction, and from it the
statements `StepKeepsInvariant`, `StepKeepsParameters`, `MemoryWriters` and `StepWritesItsOctets`. -/

namespace Sys2Proof.Machine

/-! ### Octets put one after the other -/

/-- Put the octets of a list, the first one first (R54, R62). -/
def State.putAll (s : State) (l : List (Word × Byte)) : State := l.foldl (fun u p => u.putOctet p.1 p.2) s

@[simp] theorem State.putAll_nil (s : State) : s.putAll [] = s := rfl

@[simp] theorem State.putAll_cons (s : State) (p : Word × Byte) (l : List (Word × Byte)) :
    s.putAll (p :: l) = (s.putOctet p.1 p.2).putAll l := rfl

theorem State.putAll_append (s : State) (l k : List (Word × Byte)) : s.putAll (l ++ k) = (s.putAll l).putAll k :=
  List.foldl_append

/-- Putting octets changes RAM and the outputs only. -/
theorem State.putAll_eq (s : State) (l : List (Word × Byte)) :
    s.putAll l = { s with mem := (s.putAll l).mem, outputs := (s.putAll l).outputs } := by
  induction l generalizing s with
  | nil => rfl
  | cons p l ih => rw [State.putAll_cons, ih, State.putOctet_eq]

theorem octet_putAll_of_not_mem (s : State) (l : List (Word × Byte)) (x : Word) (hx : x ∉ l.map Prod.fst) :
    (s.putAll l).octet x = s.octet x := by
  induction l generalizing s with
  | nil => rfl
  | cons p l ih =>
    simp only [List.map_cons, List.mem_cons, not_or] at hx
    obtain ⟨hne, hl⟩ := hx
    rw [State.putAll_cons, ih _ hl, octet_putOctet_of_ne s _ _ _ hne]

/-- What goes out when the octets of a list are put: those for devices, in the order of the list (R62). -/
def State.deviceOutputs (s : State) (l : List (Word × Byte)) : List Output :=
  (l.filter (fun p => s.kindAt p.1 == .device)).map (fun p => .mem p.1 p.2)

theorem mem_deviceOutputs_iff (s : State) (l : List (Word × Byte)) (o : Output) :
    o ∈ s.deviceOutputs l ↔ ∃ a b, o = .mem a b ∧ (a, b) ∈ l ∧ s.kindAt a = .device := by
  constructor
  · intro h
    obtain ⟨⟨a, b⟩, hp, rfl⟩ := List.mem_map.mp h
    obtain ⟨hl, hk⟩ := List.mem_filter.mp hp
    exact ⟨a, b, rfl, hl, by simpa using hk⟩
  · rintro ⟨a, b, rfl, hl, hk⟩
    exact List.mem_map.mpr ⟨(a, b), List.mem_filter.mpr ⟨hl, by simp [hk]⟩, rfl⟩

theorem outputs_putAll (s : State) (l : List (Word × Byte)) :
    (s.putAll l).outputs = s.outputs ++ s.deviceOutputs l := by
  induction l generalizing s with
  | nil => simp [State.deviceOutputs]
  | cons p l ih =>
    rw [State.putAll_cons, ih, outputs_putOctet]
    by_cases hk : s.kindAt p.1 = .device <;> simp [State.deviceOutputs, hk]

theorem mem_wf_putAll (s : State) (l : List (Word × Byte)) (h : s.mem.wf = true) : (s.putAll l).mem.wf = true := by
  induction l generalizing s with
  | nil => exact h
  | cons p l ih => exact ih _ (mem_wf_putOctet s _ _ h)

/-- Putting an octet depends on RAM, the outputs and the memory map alone. -/
theorem putOctet_congr {s t : State} (a : Word) (b : Byte) (hm : t.mem = s.mem) (ho : t.outputs = s.outputs)
    (hc : t.cfg = s.cfg) :
    (t.putOctet a b).mem = (s.putOctet a b).mem ∧ (t.putOctet a b).outputs = (s.putOctet a b).outputs := by
  have hk : t.kindAt a = s.kindAt a := by rw [State.kindAt, State.kindAt, hc]
  unfold State.putOctet
  rw [hk]
  split <;> simp [hm, ho]

theorem putAll_congr {s t : State} (l : List (Word × Byte)) (hm : t.mem = s.mem) (ho : t.outputs = s.outputs)
    (hc : t.cfg = s.cfg) : (t.putAll l).mem = (s.putAll l).mem ∧ (t.putAll l).outputs = (s.putAll l).outputs := by
  induction l generalizing s t with
  | nil => exact ⟨hm, ho⟩
  | cons p l ih =>
    obtain ⟨hm', ho'⟩ := putOctet_congr p.1 p.2 hm ho hc
    exact ih hm' ho' (by simp [hc])

/-! ### From one state to another by octets put -/

/-- From `s` to `t` the octets of a list have been put, and RAM, the outputs and the world have not changed otherwise. -/
structure Puts (s t : State) (l : List (Word × Byte)) : Prop where
  mem : t.mem = (s.putAll l).mem
  outputs : t.outputs = (s.putAll l).outputs
  world : SameWorld s t

theorem SameWorld.cfg {s t : State} (h : SameWorld s t) : t.cfg = s.cfg := by
  obtain ⟨_, _, _, hc⟩ := h
  exact hc

theorem SameWorld.ioInputs {s t : State} (h : SameWorld s t) : t.ioInputs = s.ioInputs := by
  obtain ⟨_, hio, _, _⟩ := h
  exact hio

theorem SameWorld.trans {s t u : State} (h : SameWorld s t) (k : SameWorld t u) : SameWorld s u := by
  obtain ⟨h1, h2, h3, h4⟩ := h
  obtain ⟨k1, k2, k3, k4⟩ := k
  exact ⟨k1.trans h1, k2.trans h2, k3.trans h3, k4.trans h4⟩

theorem Puts.trans {s t u : State} {l k : List (Word × Byte)} (h : Puts s t l) (hk : Puts t u k) : Puts s u (l ++ k) := by
  have hc : t.cfg = (s.putAll l).cfg := by rw [State.putAll_eq]; exact h.world.cfg
  obtain ⟨hm, ho⟩ := putAll_congr k h.mem h.outputs hc
  rw [← State.putAll_append] at hm ho
  exact ⟨hk.mem.trans hm, hk.outputs.trans ho, h.world.trans hk.world⟩

/-- Octets put, then registers or flags written. -/
theorem Puts.then_still {s t u : State} {l : List (Word × Byte)} (h : Puts s t l) (hu : Puts t u []) : Puts s u l := by
  simpa using h.trans hu

/-- Registers or flags written, then octets put. -/
theorem Puts.after_still {s t u : State} {l : List (Word × Byte)} (h : Puts t u l) (ht : Puts s t []) : Puts s u l := by
  simpa using ht.trans h

/-- An operation made from `s` puts one octet at each address of a list, where it answers a state. -/
def PutsAt (s : State) (x : Result State) (as : List Word) : Prop :=
  ∀ t, x = .next t → ∃ l, l.map Prod.fst = as ∧ Puts s t l

namespace PutsAt

variable {s : State}

/-- An operation that leaves RAM, the outputs and the world alone. -/
theorem of_still {x : Result State} (h : ∀ t, x = .next t → Puts s t []) : PutsAt s x [] :=
  fun t ht => ⟨[], rfl, h t ht⟩

theorem of_next {t : State} (h : Puts s t []) : PutsAt s (.next t) [] := by
  refine of_still ?_
  rintro _ ⟨⟩
  exact h

/-- An operation that goes on, with a value read, to states with RAM, outputs and world of `s`. -/
theorem of_andThen {α : Type} {x : Result α} {f : α → State} (h : ∀ a, x = .next a → Puts s (f a) []) :
    PutsAt s (andThen x fun a => .next (f a)) [] := by
  refine of_still fun t ht => ?_
  obtain ⟨a, ha, hf⟩ := (andThen_eq_next _ _ _).mp ht
  cases hf
  exact h a ha

theorem writeWord (a v : Word) : PutsAt s (writeWord s a v) (bothOctets a) := by
  intro t ht
  obtain ⟨_, rfl⟩ := writeWord_eq_next s t a v ht
  exact ⟨wordPuts s a v, rfl, rfl, rfl, by simp [SameWorld]⟩

theorem writeOctet (a : Word) (v : Byte) : PutsAt s (writeOctet s a v) [a] := by
  intro t ht
  obtain ⟨_, rfl⟩ := writeOctet_eq_next s t a v ht
  exact ⟨[(a, v)], rfl, rfl, rfl, by simp [SameWorld]⟩

theorem push (v : Word) : PutsAt s (push v s) (bothOctets (s.sp - 2#16)) := by
  intro t ht
  obtain ⟨l, hl, h⟩ := writeWord _ _ t ht
  exact ⟨l, hl, h.after_still ⟨rfl, rfl, .refl s⟩⟩

theorem callTo (a : Word) : PutsAt s (callTo a s) (bothOctets (s.sp - 2#16)) := by
  intro t ht
  obtain ⟨u, hu, hf⟩ := (andThen_eq_next _ _ _).mp ht
  cases hf
  obtain ⟨l, hl, h⟩ := push _ u hu
  exact ⟨l, hl, h.then_still ⟨rfl, rfl, .refl u⟩⟩

theorem interruptEntry (m : Word) : PutsAt s (interruptEntry m s) (entryOctets s) := by
  intro t ht
  obtain ⟨s1, s2, h1, h2, rfl⟩ := interruptEntry_eq_next s t m ht
  obtain ⟨l1, hl1, p1⟩ := push _ s1 h1
  obtain ⟨l2, hl2, p2⟩ := push _ s2 h2
  have hsp : s1.sp - 2#16 = s.sp - 4#16 := by
    obtain ⟨_, rfl⟩ := push_eq_next s s1 _ h1
    have : s.sp - 2#16 - 2#16 = s.sp - 4#16 := by rw [BitVec.sub_sub]; rfl
    simpa [State.sp] using this
  refine ⟨l1 ++ l2, ?_, (p1.trans p2).then_still ⟨rfl, rfl, .refl s2⟩⟩
  rw [List.map_append, hl1, hl2, hsp, entryOctets]

theorem softwareInterrupt (m : Word) : PutsAt s (softwareInterrupt m s) (intOctets s) := by
  intro t ht
  obtain ⟨hc, he⟩ | ⟨hc, rfl⟩ := softwareInterrupt_eq_next s t m ht
  · rw [intOctets, if_pos hc]
    exact interruptEntry m t he
  · simp only [intOctets, hc]
    exact ⟨[], rfl, rfl, rfl, .refl _⟩

/-- DIV puts the octets of an entry for a divisor of 0 where one can be accepted, and none otherwise (R152, R247). -/
theorem divBy (rc : Reg) (b : Word) : PutsAt s (divBy rc b s) (divOctets b s) := by
  unfold Machine.divBy divOctets
  split
  · rename_i hb
    intro t ht
    obtain ⟨hc, he⟩ | ⟨hc, rfl⟩ := divisionError_eq_next s t ht
    · obtain ⟨l, hl, h⟩ := interruptEntry (s := s.setDivError true) 0#16 t he
      have has : entryOctets (s.setDivError true) = entryOctets s := rfl
      exact ⟨l, by simp [hl, has, hb, hc], h.after_still ⟨rfl, rfl, .refl s⟩⟩
    · exact ⟨[], by simp [hc], rfl, rfl, .refl s⟩
  · rename_i hb
    simp only [hb, decide_false, Bool.false_and, Bool.false_eq_true, if_false]
    exact of_next ⟨rfl, rfl, .refl s⟩

theorem conditional (test : Bool) : PutsAt s (conditional test s) [] := by
  refine of_still fun t ht => ?_
  obtain ⟨_, rfl⟩ | ⟨_, pc, _, rfl⟩ := conditional_eq_next test s t ht
  · exact ⟨rfl, rfl, .refl _⟩
  · exact ⟨rfl, rfl, .refl s⟩

theorem pop {k : Nat} {p : Word × State} (h : pop k s = .next p) : Puts s p.2 [] := by
  rw [(pop_eq_next s k p h).2]
  exact ⟨rfl, rfl, .refl s⟩

theorem returnFromInterrupt : PutsAt s (returnFromInterrupt s) [] := by
  refine of_still fun t ht => ?_
  obtain ⟨p, q, hp, hq, rfl⟩ := returnFromInterrupt_eq_next s t ht
  have hmid : Puts s ((p.2.setReg .r1 p.1).setInterrupt false) [] := (pop hp).then_still ⟨rfl, rfl, .refl p.2⟩
  exact (hmid.then_still (pop hq)).then_still ⟨rfl, rfl, .refl q.2⟩

theorem illegalWordStop (w : Word) : PutsAt s (illegalWordStop w s) [] :=
  fun t ht => absurd ht (illegalWordStop_ne_next w s t)

end PutsAt

/-! ### What each instruction puts -/

/-- INP uses up the next listed answer, where there is one (R231). -/
theorem ioRead_state (port : Byte) (s : State) : (ioRead port s).2 = { s with ioInputs := s.ioInputs.tail } := by
  unfold ioRead
  split
  · rename_i h; rw [h]; rfl
  · rename_i h
    rw [h]
    show s = { s with ioInputs := [] }
    rw [← h]

theorem inpFrom_eq (b : Word) (rc : Reg) (s : State) :
    inpFrom b rc s = .next { s.setReg rc (ioRead (portOf b) s).1 with ioInputs := s.ioInputs.tail } := by
  rw [inpFrom, ioRead_state]
  rfl

/-- Everything an instruction can do to RAM, the outputs and the world: it puts the octets that `instrOctets` reads off it;
else it is an INP and takes an answer of the IO space, or an OUT and puts one value out to it. -/
theorem exec_puts (i : Instr) (s : State) :
    (isInp i = false ∧ isOut i = false ∧ PutsAt s (exec i s) (instrOctets i s)) ∨
    (isInp i = true ∧ instrOctets i s = [] ∧
      ∃ rc v, exec i s = .next { s.setReg rc v with ioInputs := s.ioInputs.tail }) ∨
    (isOut i = true ∧ isInp i = false ∧ instrOctets i s = [] ∧
      ∃ port v, exec i s = .next { s with outputs := s.outputs ++ [.io port v] }) := by
  cases i with
  | inpR | inpL => exact .inr (.inl ⟨rfl, rfl, _, _, inpFrom_eq _ _ s⟩)
  | outR | outL => exact .inr (.inr ⟨rfl, rfl, rfl, _, _, rfl⟩)
  | storeL | storeR => exact .inl ⟨rfl, rfl, .writeWord _ _⟩
  | storebL | storebR => exact .inl ⟨rfl, rfl, .writeOctet _ _⟩
  | push => exact .inl ⟨rfl, rfl, .push _⟩
  | callAbs | callRel => exact .inl ⟨rfl, rfl, .callTo _⟩
  | intR | intL => exact .inl ⟨rfl, rfl, .softwareInterrupt _⟩
  | divR | divL => exact .inl ⟨rfl, rfl, .divBy _ _⟩
  | loadL | loadR | loadbL | loadbR => exact .inl ⟨rfl, rfl, .of_andThen fun _ _ => ⟨rfl, rfl, .refl s⟩⟩
  | pop | ret => exact .inl ⟨rfl, rfl, .of_andThen fun p hp => (PutsAt.pop hp).then_still ⟨rfl, rfl, .refl p.2⟩⟩
  | rfi => exact .inl ⟨rfl, rfl, .returnFromInterrupt⟩
  | reserved | unassigned => exact .inl ⟨rfl, rfl, .illegalWordStop _⟩
  | beqR | beqL | bneqR | bneqL | bgR | bgL | bgeR | bgeL | bugR | bugL | bugeR | bugeL | bbits | bclear | bovf | bocf =>
    exact .inl ⟨rfl, rfl, .conditional _⟩
  | addR | addL | addcR | subR | subL | subcR | subcL | sllR | sllL | srlR | srlL | sraR | sraL | mulR | mulL =>
    exact .inl ⟨rfl, rfl, .of_next ⟨rfl, rfl, .refl s⟩⟩
  | andR | orR | xorR | notR | negR | rotlR | rotlL | rotrR | rotrL | swp | cpy | setL | xchg | sxtbd | getpc | getflags
  | gety | getia =>
    exact .inl ⟨rfl, rfl, .of_next ⟨rfl, rfl, .refl s⟩⟩
  | jmpAbs | jmpRel | setyR | setyL | setiaR | setiaL | nop | sleep | clrdiverr =>
    exact .inl ⟨rfl, rfl, .of_next ⟨rfl, rfl, .refl s⟩⟩

/-- An instruction that is no writer of RAM writes no octet (R61, R203). -/
theorem instrOctets_of_not_writesRam (i : Instr) (s : State) (h : writesRam i = false) : instrOctets i s = [] := by
  cases i with
  | storeL | storeR | storebL | storebR | push | callAbs | callRel | intR | intL | divR | divL => cases h
  | _ => rfl

end Sys2Proof.Machine

namespace Sys2Proof.Machine

/-! ### The three kinds of step (R270) -/

/-- An interrupt that can be accepted is entered, by a CPU that sleeps too, which wakes (R206, R248). -/
theorem step_accepts {s : State} (h : (canAccept s && s.pins.intLow) = true) :
    step s = interruptEntry s.pins.dataBus (s.tick.setAsleep false) := by
  have hc : canAccept s.tick = canAccept s := rfl
  cases ha : s.asleep with
  | true =>
    simp only [Bool.and_eq_true] at h
    simp only [step, stepWith, ha, if_true, wakeTest, hc, h, Bool.and_self]
    split <;> rfl
  | false =>
    have hawake : s.tick.setAsleep false = s.tick := by rw [← ha]; rfl
    simp only [step, stepWith, ha, h, if_true, hawake, Bool.false_eq_true, if_false]

/-- Awake, with no interrupt to be accepted, the CPU runs the instruction at PC. -/
theorem step_awake {s : State} (ha : s.asleep = false) (h : (canAccept s && s.pins.intLow) = false) :
    step s = andThen (fetch s.tick) fun p => exec p.1 p.2 := by
  simp only [step, stepWith, ha, h, Bool.false_eq_true, if_false]

/-- Asleep, with no interrupt to be accepted, the CPU sleeps on; under `any_int_line` a low INT line wakes it (R206). -/
theorem step_asleep {s : State} (ha : s.asleep = true) (h : (canAccept s && s.pins.intLow) = false) :
    step s = .next (if s.cfg.sleepWake = .anyIntLine ∧ s.pins.intLow = true then s.tick.setAsleep false else s.tick) := by
  have hc : canAccept s.tick = canAccept s := rfl
  simp only [step, stepWith, ha, if_true, wakeTest, State.cfg_tick, hc, h]
  cases hw : s.cfg.sleepWake with
  | onlyWhenTaken => simp
  | anyIntLine => cases hp : s.pins.intLow <;> simp_all

theorem stepOctets_accepts {s : State} (h : (canAccept s && s.pins.intLow) = true) : stepOctets s = entryOctets s := by
  simp only [stepOctets, h, if_true]

theorem stepOctets_asleep {s : State} (ha : s.asleep = true) (h : (canAccept s && s.pins.intLow) = false) :
    stepOctets s = [] := by
  simp only [stepOctets, h, ha, if_true, Bool.false_eq_true, if_false]

theorem stepOctets_awake {s : State} {p : Instr × State} (ha : s.asleep = false)
    (h : (canAccept s && s.pins.intLow) = false) (hf : fetch s.tick = .next p) : stepOctets s = instrOctets p.1 p.2 := by
  simp only [stepOctets, h, ha, hf, Bool.false_eq_true, if_false]

/-! ### The effect of an instruction and of a step on RAM, the outputs and the world -/

/-- From `s` to `t` the octets of a list have been put and then the values of another list put out to the IO space, at most
one answer of the IO space has been used up, and RAM, the outputs and the world have not changed otherwise. -/
structure Effect (s t : State) (l : List (Word × Byte)) (io : List (Byte × Word)) : Prop where
  mem : t.mem = (s.putAll l).mem
  outputs : t.outputs = (s.putAll l).outputs ++ io.map fun p => Output.io p.1 p.2
  ioInputs : t.ioInputs = s.ioInputs ∨ t.ioInputs = s.ioInputs.tail
  inputs : t.inputs = s.inputs
  boundary : t.boundary = s.boundary
  cfg : t.cfg = s.cfg

theorem Puts.effect {s t : State} {l : List (Word × Byte)} (h : Puts s t l) : Effect s t l [] := by
  obtain ⟨hi, hio, hb, hc⟩ := h.world
  exact ⟨h.mem, by simp [h.outputs], .inl hio, hi, hb, hc⟩

theorem Effect.outputs_eq {s t : State} {l : List (Word × Byte)} {io : List (Byte × Word)} (h : Effect s t l io) :
    t.outputs = s.outputs ++ (s.deviceOutputs l ++ io.map fun p => Output.io p.1 p.2) := by
  rw [h.outputs, outputs_putAll, List.append_assoc]

theorem Effect.sameMem {s t : State} {l : List (Word × Byte)} {io : List (Byte × Word)} (h : Effect s t l io) :
    SameMem s t (l.map Prod.fst) := by
  intro x hx
  rw [← octet_putAll_of_not_mem s l x hx, State.octet, h.mem]
  rfl

/-- The effect of an operation whose start differs from `s` in registers, PC and flags only. -/
theorem Effect.after_still {s t u : State} {l : List (Word × Byte)} {io : List (Byte × Word)} (h : Effect t u l io)
    (ht : Puts s t []) : Effect s u l io := by
  obtain ⟨hi, hio, hb, hc⟩ := ht.world
  obtain ⟨hm, ho⟩ := putAll_congr l ht.mem ht.outputs hc
  exact ⟨h.mem.trans hm, by rw [h.outputs, ho]; rfl, by simpa [hio] using h.ioInputs, h.inputs.trans hi,
    h.boundary.trans hb, h.cfg.trans hc⟩

theorem exec_effect {i : Instr} {s t : State} (h : exec i s = .next t) :
    ∃ l io, l.map Prod.fst = instrOctets i s ∧ (isOut i = false → io = []) ∧ (isInp i = false → t.ioInputs = s.ioInputs) ∧
      Effect s t l io := by
  obtain ⟨_, _, hp⟩ | ⟨hi, hno, rc, v, he⟩ | ⟨ho, _, hno, port, v, he⟩ := exec_puts i s
  · obtain ⟨l, hl, hputs⟩ := hp t h
    exact ⟨l, [], hl, fun _ => rfl, fun _ => hputs.world.ioInputs, hputs.effect⟩
  · cases he.symm.trans h
    exact ⟨[], [], hno.symm, fun _ => rfl, by simp [hi], ⟨rfl, by simp, .inr rfl, rfl, rfl, rfl⟩⟩
  · cases he.symm.trans h
    exact ⟨[], [(port, v)], hno.symm, by simp [ho], fun _ => rfl, ⟨rfl, rfl, .inl rfl, rfl, rfl, rfl⟩⟩

/-- A fetch moves PC and changes nothing else. -/
theorem fetch_state {s : State} {p : Instr × State} (h : fetch s = .next p) : ∃ pc, p.2 = s.setPc pc := by
  obtain ⟨_, _, _, _, ⟨_, rfl⟩ | ⟨_, _, _, rfl⟩⟩ := fetch_eq_next s p h
  · exact ⟨_, rfl⟩
  · exact ⟨_, rfl⟩

/-- A step puts one octet at each address that `stepOctets` lists. -/
theorem step_effect {s t : State} (h : step s = .next t) :
    ∃ l io, l.map Prod.fst = stepOctets s ∧ Effect s.tick t l io := by
  cases hacc : canAccept s && s.pins.intLow with
  | true =>
    rw [step_accepts hacc] at h
    obtain ⟨l, hl, hp⟩ := PutsAt.interruptEntry _ t h
    have hwake : Puts s.tick (s.tick.setAsleep false) [] := ⟨rfl, rfl, .refl s.tick⟩
    exact ⟨l, [], hl.trans (stepOctets_accepts hacc).symm, (hp.after_still hwake).effect⟩
  | false =>
    cases ha : s.asleep with
    | true =>
      rw [step_asleep ha hacc] at h
      refine ⟨[], [], (stepOctets_asleep ha hacc).symm, Puts.effect ?_⟩
      cases h
      split
      · exact ⟨rfl, rfl, .refl s.tick⟩
      · exact ⟨rfl, rfl, .refl s.tick⟩
    | false =>
      rw [step_awake ha hacc] at h
      obtain ⟨p, hf, he⟩ := (andThen_eq_next _ _ _).mp h
      obtain ⟨l, io, hl, _, _, heff⟩ := exec_effect he
      obtain ⟨pc, hpc⟩ := fetch_state hf
      refine ⟨l, io, hl.trans (stepOctets_awake ha hacc hf).symm, heff.after_still ?_⟩
      rw [hpc]
      exact ⟨rfl, rfl, .refl s.tick⟩

/-- Settles O4: a step changes RAM by octets put, each of which keeps the canonical form. -/
theorem stepKeepsInvariant : Obligations.StepKeepsInvariant := by
  intro s t hinv h
  obtain ⟨l, _, _, heff⟩ := step_effect h
  rw [State.Inv, heff.mem]
  exact mem_wf_putAll s.tick l hinv

/-- Settles O5: the effect of a step, its first lists read as what goes out. -/
theorem stepKeepsParameters : Obligations.StepKeepsParameters := by
  intro s t h
  obtain ⟨l, io, _, heff⟩ := step_effect h
  exact ⟨heff.cfg, heff.inputs, heff.boundary, heff.ioInputs, _, heff.outputs_eq⟩

/-- Settles O58: an instruction that writes no RAM puts no octet, and only OUT puts anything out to the IO space. -/
theorem memoryWriters : Obligations.MemoryWriters := by
  intro i s t h
  obtain ⟨l, io, hl, hio, hinp, heff⟩ := exec_effect h
  have hnil (hw : writesRam i = false) : l = [] := by
    rw [instrOctets_of_not_writesRam i s hw] at hl
    exact List.map_eq_nil_iff.mp hl
  refine ⟨fun hw => ?_, fun hw ho => ?_, ⟨_, heff.outputs_eq, fun ho o hmem => ?_⟩, hinp⟩
  · rw [heff.mem, hnil hw]; rfl
  · rw [heff.outputs, hnil hw, hio ho]; simp
  · rw [hio ho, List.map_nil, List.append_nil] at hmem
    obtain ⟨a, b, rfl, _, hk⟩ := (mem_deviceOutputs_iff s l o).mp hmem
    exact ⟨a, b, rfl, hk⟩

/-- Settles O59: the octets that a step puts stand at the addresses of `stepOctets`, and of what goes out those for devices
are the octets put there. -/
theorem stepWritesItsOctets : Obligations.StepWritesItsOctets := by
  intro s t h
  obtain ⟨l, io, hl, heff⟩ := step_effect h
  refine ⟨hl ▸ heff.sameMem, _, heff.outputs_eq, fun a b hmem => ?_, fun a ha hk => ?_⟩
  · rcases List.mem_append.mp hmem with hmem | hmem
    · obtain ⟨_, _, ⟨⟩, hin, hk⟩ := (mem_deviceOutputs_iff s.tick l _).mp hmem
      exact ⟨hl ▸ List.mem_map.mpr ⟨(a, b), hin, rfl⟩, hk⟩
    · simp at hmem
  · rw [← hl] at ha
    obtain ⟨⟨_, b⟩, hin, rfl⟩ := List.mem_map.mp ha
    exact ⟨b, List.mem_append_left _ ((mem_deviceOutputs_iff s.tick l _).mpr ⟨_, b, rfl, hin, hk⟩)⟩

end Sys2Proof.Machine

/-! The decoder and the encoder as inverses of each other: the statements `DecodeOfEncode`, `EncodeOfDecode`, `DecodeTotal` and
`ClashPolicies` (their parts about words). -/

namespace Sys2Proof

/-! ### A word is made of its fields (R84 to R87) -/

theorem word3P_fields (w : Word) :
    word3P (w.extractLsb' 12 4) (w.extractLsb' 8 4) (w.extractLsb' 4 4) (w.extractLsb' 0 4) = w := by
  apply BitVec.eq_of_toNat_eq
  simp only [word3P_toNat, BitVec.extractLsb'_toNat, Nat.shiftRight_eq_div_pow]
  omega

theorem word2P_fields (w : Word) : word2P (w.extractLsb' 8 8) (w.extractLsb' 4 4) (w.extractLsb' 0 4) = w := by
  apply BitVec.eq_of_toNat_eq
  simp only [word2P_toNat, BitVec.extractLsb'_toNat, Nat.shiftRight_eq_div_pow]
  omega

theorem word1P_fields (w : Word) : word1P (w.extractLsb' 4 12) (w.extractLsb' 0 4) = w := by
  apply BitVec.eq_of_toNat_eq
  simp only [word1P_toNat, BitVec.extractLsb'_toNat, Nat.shiftRight_eq_div_pow]
  omega

theorem word1L_fields (w : Word) : word1L (w.extractLsb' 9 7) (w.extractLsb' 0 9) = w := by
  apply BitVec.eq_of_toNat_eq
  simp only [word1L_toNat, BitVec.extractLsb'_toNat, Nat.shiftRight_eq_div_pow]
  omega

theorem reserved_fields {w : Word} (h : w.extractLsb' 12 4 = 3#4) : 3#4 ++ w.extractLsb' 0 12 = w := by
  apply BitVec.eq_of_toNat_eq
  simp only [← BitVec.toNat_inj, BitVec.extractLsb'_toNat, Nat.shiftRight_eq_div_pow, BitVec.toNat_ofNat] at h
  erw [toNat_append]
  simp only [BitVec.extractLsb'_toNat, Nat.shiftRight_eq_div_pow, BitVec.toNat_ofNat]
  omega

/-! ### The words without a line, format by format (R96 to R99) -/

theorem lineless_3P {w : Word} (h : w.extractLsb' 15 1 = 1#1) : lineless w = false := by
  simp only [← BitVec.toNat_inj, BitVec.extractLsb'_toNat, Nat.shiftRight_eq_div_pow, BitVec.toNat_ofNat] at h
  rw [Bool.eq_false_iff]
  simp only [lineless, ne_eq, Bool.or_eq_true, Bool.and_eq_true, decide_eq_true_eq]
  omega

theorem lineless_reserved {w : Word} (h : w.extractLsb' 12 4 = 3#4) : lineless w = false := by
  simp only [← BitVec.toNat_inj, BitVec.extractLsb'_toNat, Nat.shiftRight_eq_div_pow, BitVec.toNat_ofNat] at h
  rw [Bool.eq_false_iff]
  simp only [lineless, ne_eq, Bool.or_eq_true, Bool.and_eq_true, decide_eq_true_eq]
  omega

theorem lineless_2P {w : Word} (h : w.extractLsb' 14 2 = 1#2) :
    lineless w = (ExtraOpcode.twoParam (w.extractLsb' 8 8)).lineless := by
  simp only [← BitVec.toNat_inj, BitVec.extractLsb'_toNat, Nat.shiftRight_eq_div_pow, BitVec.toNat_ofNat] at h
  rw [Bool.eq_iff_iff]
  simp only [lineless, ExtraOpcode.lineless, Bool.or_eq_true, Bool.and_eq_true, decide_eq_true_eq, beq_iff_eq,
    ← BitVec.toNat_inj, BitVec.extractLsb'_toNat, Nat.shiftRight_eq_div_pow, BitVec.toNat_ofNat]
  omega

theorem lineless_1P {w : Word} (h : w.extractLsb' 12 4 = 2#4) :
    lineless w = (ExtraOpcode.oneParam (w.extractLsb' 4 12)).lineless := by
  simp only [← BitVec.toNat_inj, BitVec.extractLsb'_toNat, Nat.shiftRight_eq_div_pow, BitVec.toNat_ofNat] at h
  rw [Bool.eq_iff_iff]
  simp only [lineless, ExtraOpcode.lineless, Bool.or_eq_true, Bool.and_eq_true, decide_eq_true_eq, beq_iff_eq,
    ← BitVec.toNat_inj, BitVec.extractLsb'_toNat, Nat.shiftRight_eq_div_pow, BitVec.toNat_ofNat]
  omega

theorem lineless_1L {w : Word} (h : w.extractLsb' 12 4 = 1#4) :
    lineless w = (ExtraOpcode.longLit (w.extractLsb' 9 3)).lineless := by
  simp only [← BitVec.toNat_inj, BitVec.extractLsb'_toNat, Nat.shiftRight_eq_div_pow, BitVec.toNat_ofNat] at h
  rw [Bool.eq_iff_iff]
  simp only [lineless, ExtraOpcode.lineless, Bool.or_eq_true, Bool.and_eq_true, decide_eq_true_eq, beq_iff_eq,
    ← BitVec.toNat_inj, BitVec.extractLsb'_toNat, Nat.shiftRight_eq_div_pow, BitVec.toNat_ofNat]
  omega

theorem lineless_0P {w : Word} (h : w.extractLsb' 12 4 = 0#4) : lineless w = (ExtraOpcode.noParam w).lineless := by
  simp only [← BitVec.toNat_inj, BitVec.extractLsb'_toNat, Nat.shiftRight_eq_div_pow, BitVec.toNat_ofNat] at h
  rw [Bool.eq_iff_iff]
  simp only [lineless, ExtraOpcode.lineless, Bool.or_eq_true, Bool.and_eq_true, decide_eq_true_eq]
  omega

/-! ### What a word decodes to by the lines of the source -/

/-- A word decodes to an instruction by a line of the source that the clash policy keeps, or to itself where it has none:
the instruction is well formed and its own line gives the word back. -/
structure IsLine (p : ClashPolicy) (w : Word) (i : Instr) : Prop where
  firstWord : i.firstWord = w
  wf : i.wf = true
  keeps : ∀ f, i.clashForm? = some f → p.keeps f.isFirst = true

/-- Well-formedness of an instruction whose literal, if any, has been read from a field. -/
theorem Instr.wf_of_literal {i : Instr} (hu : ∀ v, i ≠ .unassigned v)
    (h : i.literal? = none ∨ ∃ f, i.literal? = some (Lit.ofField f)) : i.wf = true := by
  have hl : i.litWf = true := by
    unfold Instr.litWf
    obtain h | ⟨f, h⟩ := h <;> rw [h]
    exact Lit.wf_ofField f
  cases i with
  | unassigned v => exact absurd rfl (hu v)
  | _ => exact hl

theorem isLine_decode3P (p : ClashPolicy) {w : Word} (h : w.extractLsb' 15 1 = 1#1) : IsLine p w (decode3P w) := by
  have hop : w.extractLsb' 12 4 = 1#1 ++ w.extractLsb' 12 3 := by
    apply BitVec.eq_of_toNat_eq
    simp only [← BitVec.toNat_inj, BitVec.extractLsb'_toNat, Nat.shiftRight_eq_div_pow, BitVec.toNat_ofNat] at h
    erw [toNat_append]
    simp only [BitVec.extractLsb'_toNat, Nat.shiftRight_eq_div_pow, BitVec.toNat_ofNat]
    omega
  have hw := word3P_fields w
  rw [hop] at hw
  unfold decode3P
  split <;> rename_i hk
  case h_8 =>
    have hk : w.extractLsb' 12 3 = 7#3 := by
      clear hw hop
      generalize w.extractLsb' 12 3 = op at *
      revert op
      decide
    rw [hk] at hw
    exact ⟨by simpa [Instr.firstWord] using hw, rfl, nofun⟩
  all_goals
    rw [hk] at hw
    refine ⟨?_, ?_, nofun⟩
    · simpa [Instr.firstWord] using hw
    · refine Instr.wf_of_literal nofun ?_
      simp [Instr.literal?]


theorem clashPick_eq_ok {p : ClashPolicy} {w : Word} {a b i : Instr} (h : clashPick p w a b = .ok i) :
    (p = .firstListed ∧ i = a) ∨ (p = .laterListed ∧ i = b) := by
  cases p <;> cases h
  · exact .inl ⟨rfl, rfl⟩
  · exact .inr ⟨rfl, rfl⟩

theorem isLine_unassigned {p : ClashPolicy} {w : Word} (h : lineless w = true) : IsLine p w (.unassigned w) :=
  ⟨rfl, h, nofun⟩

/-- The opcode values of format 2P that have a line (R96). -/
theorem mem_of_not_lineless_2P : ∀ op : BitVec 8, op.extractLsb' 6 2 = 1#2 → (ExtraOpcode.twoParam op).lineless = false →
    op ∈ [0x40#8, 0x41#8, 0x42#8, 0x43#8, 0x44#8, 0x45#8, 0x46#8, 0x47#8, 0x48#8, 0x49#8, 0x4A#8, 0x4B#8, 0x4C#8, 0x4D#8,
      0x4E#8, 0x4F#8, 0x50#8, 0x51#8, 0x52#8, 0x53#8, 0x54#8, 0x55#8, 0x56#8, 0x57#8, 0x58#8, 0x59#8, 0x5A#8, 0x5B#8,
      0x5D#8, 0x5F#8, 0x60#8, 0x61#8, 0x62#8, 0x63#8, 0x64#8, 0x65#8, 0x66#8, 0x67#8, 0x68#8, 0x7E#8, 0x7F#8] := by
  decide

/-- The opcode values of format 1P that have a line (R97). -/
theorem mem_of_not_lineless_1P : ∀ op : BitVec 12, op.extractLsb' 8 4 = 2#4 → (ExtraOpcode.oneParam op).lineless = false →
    op ∈ [0x200#12, 0x201#12, 0x202#12, 0x203#12, 0x204#12, 0x205#12, 0x206#12, 0x207#12, 0x208#12, 0x209#12, 0x20A#12,
      0x20B#12, 0x20C#12, 0x20D#12, 0x20F#12] := by
  intro op h hl
  have hlt := op.isLt
  simp only [← BitVec.toNat_inj, BitVec.extractLsb'_toNat, Nat.shiftRight_eq_div_pow, BitVec.toNat_ofNat] at h
  simp only [ExtraOpcode.lineless, Bool.or_eq_false_iff, Bool.and_eq_false_iff, decide_eq_false_iff_not, beq_eq_false_iff_ne,
    ne_eq, ← BitVec.toNat_inj, BitVec.toNat_ofNat] at hl
  simp only [List.mem_cons, List.not_mem_nil, or_false, ← BitVec.toNat_inj, BitVec.toNat_ofNat]
  omega

theorem isLine_decode2P {p : ClashPolicy} {w : Word} {i : Instr} (h : w.extractLsb' 14 2 = 1#2)
    (hd : decode2P p w = .ok i) : IsLine p w i := by
  have hw := word2P_fields w
  unfold decode2P at hd
  split at hd
  case h_42 =>
    cases hd
    refine isLine_unassigned ?_
    rw [lineless_2P h]
    have hform : (w.extractLsb' 8 8).extractLsb' 6 2 = 1#2 := by rw [← word2P_form, hw, h]
    by_contra hl
    have hmem := mem_of_not_lineless_2P _ hform (by simpa using hl)
    simp only [List.mem_cons, List.not_mem_nil, or_false] at hmem
    tauto
  case h_19 | h_20 | h_21 | h_22 | h_23 | h_24 =>
    rename_i hk
    rw [hk] at hw
    obtain ⟨rfl, rfl⟩ | ⟨rfl, rfl⟩ := clashPick_eq_ok hd
    all_goals
      refine ⟨by simpa [Instr.firstWord] using hw, Instr.wf_of_literal nofun (by simp [Instr.literal?]), ?_⟩
      rintro _ ⟨⟩
      rfl
  all_goals
    rename_i hk
    rw [hk] at hw
    cases hd
    exact ⟨by simpa [Instr.firstWord] using hw, Instr.wf_of_literal nofun (by simp [Instr.literal?]), nofun⟩

theorem isLine_decode1P {p : ClashPolicy} {w : Word} {i : Instr} (h : w.extractLsb' 13 3 = 1#3)
    (hd : decode1P p w = .ok i) : IsLine p w i := by
  have hw := word1P_fields w
  unfold decode1P at hd
  split at hd
  · rename_i hr
    cases hd
    exact ⟨reserved_fields hr, rfl, nofun⟩
  have hform : w.extractLsb' 12 4 = 2#4 := by
    rename_i hr
    simp only [← BitVec.toNat_inj, BitVec.extractLsb'_toNat, Nat.shiftRight_eq_div_pow, BitVec.toNat_ofNat] at h hr ⊢
    omega
  split at hd
  case h_16 =>
    cases hd
    refine isLine_unassigned ?_
    rw [lineless_1P hform]
    have hop : (w.extractLsb' 4 12).extractLsb' 8 4 = 2#4 := by rw [← word1P_nibble, hw, hform]
    by_contra hl
    have hmem := mem_of_not_lineless_1P _ hop (by simpa using hl)
    simp only [List.mem_cons, List.not_mem_nil, or_false] at hmem
    tauto
  case h_8 =>
    rename_i hk
    rw [hk] at hw
    obtain ⟨rfl, rfl⟩ | ⟨rfl, rfl⟩ := clashPick_eq_ok hd
    all_goals
      refine ⟨by simpa [Instr.firstWord] using hw, Instr.wf_of_literal nofun (by simp [Instr.literal?]), ?_⟩
      rintro _ ⟨⟩
      rfl
  all_goals
    rename_i hk
    rw [hk] at hw
    cases hd
    exact ⟨by simpa [Instr.firstWord] using hw, Instr.wf_of_literal nofun (by simp [Instr.literal?]), nofun⟩

theorem isLine_decode1L (p : ClashPolicy) {w : Word} (h : w.extractLsb' 12 4 = 1#4) : IsLine p w (decode1L w) := by
  have hop : w.extractLsb' 9 7 = 1#4 ++ w.extractLsb' 9 3 := by
    apply BitVec.eq_of_toNat_eq
    simp only [← BitVec.toNat_inj, BitVec.extractLsb'_toNat, Nat.shiftRight_eq_div_pow, BitVec.toNat_ofNat] at h
    erw [toNat_append]
    simp only [BitVec.extractLsb'_toNat, Nat.shiftRight_eq_div_pow, BitVec.toNat_ofNat]
    omega
  have hw := word1L_fields w
  rw [hop] at hw
  unfold decode1L
  split
  case h_3 =>
    refine isLine_unassigned ?_
    rw [lineless_1L h]
    clear hw hop
    generalize w.extractLsb' 9 3 = op at *
    revert op
    decide
  all_goals
    rename_i hk
    rw [hk] at hw
    exact ⟨hw, rfl, nofun⟩

theorem isLine_decode0P (p : ClashPolicy) {w : Word} (h : w.extractLsb' 12 4 = 0#4) : IsLine p w (decode0P w) := by
  unfold decode0P
  split
  case h_8 =>
    refine isLine_unassigned ?_
    rw [lineless_0P h]
    simp only [imp_false, ← BitVec.toNat_inj, BitVec.extractLsb'_toNat, Nat.shiftRight_eq_div_pow, BitVec.toNat_ofNat] at *
    simp only [ExtraOpcode.lineless, Bool.or_eq_true, Bool.and_eq_true, decide_eq_true_eq]
    omega
  all_goals exact ⟨rfl, rfl, nofun⟩

/-- Everything that a word can decode to by the lines of the source (R81). -/
theorem isLine_of_decodeListed {p : ClashPolicy} {w : Word} {i : Instr} (h : decodeListed p w = .ok i) : IsLine p w i := by
  unfold decodeListed at h
  split at h
  · cases h; exact isLine_decode3P p ‹_›
  split at h
  · exact isLine_decode2P ‹_› h
  split at h
  · exact isLine_decode1P ‹_› h
  split at h
  · cases h; exact isLine_decode1L p ‹_›
  · cases h
    refine isLine_decode0P p ?_
    simp only [← BitVec.toNat_inj, BitVec.extractLsb'_toNat, Nat.shiftRight_eq_div_pow, BitVec.toNat_ofNat] at *
    omega

end Sys2Proof

namespace Sys2Proof

/-! ### The literal word put in (R83, R90) -/

@[simp] theorem Lit.fill_fill (l : Lit) (v u : Word) : (l.fill v).fill u = l.fill u := by cases l <;> rfl

/-- A well-formed literal, read from its field, waits for its literal word where it has one. -/
theorem Lit.ofField_field {l : Lit} (h : l.wf = true) : Lit.ofField l.field = l.fill 0#16 := by
  cases l with
  | short f => exact Lit.ofField_short f h
  | word w => rfl

theorem Instr.withLit_withLit (i : Instr) (v u : Word) : (i.withLit v).withLit u = i.withLit u := by
  cases i <;> simp [Instr.withLit]

theorem Instr.withLit_eq_self {i : Instr} {v : Word} (h : ∀ l, i.literal? = some l → l.fill v = l) : i.withLit v = i := by
  cases i <;> simp_all [Instr.withLit, Instr.literal?]

theorem Instr.firstWord_withLit (i : Instr) (v : Word) : (i.withLit v).firstWord = i.firstWord := by
  cases i <;> simp [Instr.withLit, Instr.firstWord]

theorem Instr.clashForm?_withLit (i : Instr) (v : Word) : (i.withLit v).clashForm? = i.clashForm? := by cases i <;> rfl

/-- The literal word of an instruction, if any: it is there where the instruction is two words long (R92). -/
def Instr.literalWords (i : Instr) : List Word := match i.literal? with | some l => l.words | none => []

theorem Instr.literalWords_cases (i : Instr) :
    (i.words = 1 ∧ i.literalWords = [] ∧ ∀ v, i.withLit v = i) ∨
      ∃ u, i.words = 2 ∧ i.literalWords = [u] ∧ i.withLit u = i ∧ ∀ v, (i.withLit v).literalWords = [v] := by
  unfold Instr.words Instr.literalWords
  cases h : i.literal? with
  | none => exact .inl ⟨rfl, rfl, fun v => Instr.withLit_eq_self (by simp [h])⟩
  | some l =>
    cases l with
    | short f => exact .inl ⟨rfl, rfl, fun v => Instr.withLit_eq_self (by simp [h, Lit.fill])⟩
    | word u =>
      refine .inr ⟨u, rfl, rfl, Instr.withLit_eq_self (by simp [h, Lit.fill]), fun v => ?_⟩
      rw [Instr.literal_withLit, h]
      rfl

theorem encodeUnder_eq (c : Config) (i : Instr) :
    encodeUnder c i = (firstWordUnder c i).map (fun w => w :: i.literalWords) := rfl

/-- Settles O52: by `isLine_of_decodeListed` the word is the first word of the line that the policy keeps. -/
theorem encodeOfDecode : Obligations.EncodeOfDecode := by
  intro c w lit i hextra h
  unfold decode at h
  rw [decodeFirst_eq_listed c w hextra] at h
  split at h
  case h_2 => cases h
  rename_i j hj
  cases h
  have hline := isLine_of_decodeListed hj
  have hfirst : firstWordUnder c (j.withLit lit) = some w := by
    unfold firstWordUnder
    rw [Instr.clashForm?_withLit, Instr.firstWord_withLit, hline.firstWord]
    cases hf : j.clashForm? with
    | some f => simp [hline.keeps f hf]
    | none =>
      have hw : (j.withLit lit).firstWord = w := (Instr.firstWord_withLit j lit).trans hline.firstWord
      cases hu : j.withLit lit with
      | unassigned v => rw [hu] at hw; subst hw; simp [Config.extraAt, hextra, Instr.firstWord]
      | _ => rw [hu] at hw; simp [hw]
  rw [encodeUnder_eq, hfirst, Instr.words_withLit]
  obtain ⟨h1, hnil, hself⟩ | ⟨u, h2, _, _, hlit⟩ := j.literalWords_cases
  · rw [h1, hself, hnil]; rfl
  · rw [h2, hlit]; rfl

/-! ### The word of an instruction, decoded -/

theorem clashPick_first {p : ClashPolicy} (h : p.keeps true = true) (w : Word) (a b : Instr) : clashPick p w a b = .ok a := by
  cases p with
  | firstListed => rfl
  | laterListed | refuse => cases h

theorem clashPick_later {p : ClashPolicy} (h : p.keeps false = true) (w : Word) (a b : Instr) : clashPick p w a b = .ok b := by
  cases p with
  | laterListed => rfl
  | firstListed | refuse => cases h

theorem decodeListed_word2P {p : ClashPolicy} {op : BitVec 8} {a b : BitVec 4} (h : op.extractLsb' 6 2 = 1#2) :
    decodeListed p (word2P op a b) = decode2P p (word2P op a b) := decodeListed_2P p op a b (opcode2P_top h) h

theorem decodeListed_word1P {p : ClashPolicy} {op : BitVec 12} {a : BitVec 4} (h : op.extractLsb' 9 3 = 1#3) :
    decodeListed p (word1P op a) = decode1P p (word1P op a) := by
  obtain ⟨h1, h2⟩ := opcode1P_top h
  exact decodeListed_1P p op a h1 h2 h

theorem Instr.wf_literal {i : Instr} {l : Lit} (hw : i.wf = true) (hl : i.literal? = some l) : l.wf = true := by
  have h : i.litWf = true := by
    cases i with
    | unassigned => cases hl
    | _ => exact hw
  rw [Instr.litWf, hl] at h
  exact h

/-- The words 0x3000 to 0x3FFF are reserved (R105). -/
theorem decodeListed_reserved (p : ClashPolicy) (x : BitVec 12) : decodeListed p (3#4 ++ x) = .ok (.reserved x) := by
  have hnum : (3#4 ++ x : Word).toNat = 3 * 4096 + x.toNat := toNat_append 3#4 x
  have hx := x.isLt
  have h3 : (3#4 ++ x : Word).extractLsb' 15 1 ≠ 1#1 := by
    simp only [ne_eq, ← BitVec.toNat_inj, BitVec.extractLsb'_toNat, hnum, Nat.shiftRight_eq_div_pow, BitVec.toNat_ofNat]
    omega
  have h2 : (3#4 ++ x : Word).extractLsb' 14 2 ≠ 1#2 := by
    simp only [ne_eq, ← BitVec.toNat_inj, BitVec.extractLsb'_toNat, hnum, Nat.shiftRight_eq_div_pow, BitVec.toNat_ofNat]
    omega
  have h1 : (3#4 ++ x : Word).extractLsb' 13 3 = 1#3 := by
    simp only [← BitVec.toNat_inj, BitVec.extractLsb'_toNat, hnum, Nat.shiftRight_eq_div_pow, BitVec.toNat_ofNat]
    omega
  have hr : (3#4 ++ x : Word).extractLsb' 12 4 = 3#4 := by
    simp only [← BitVec.toNat_inj, BitVec.extractLsb'_toNat, hnum, Nat.shiftRight_eq_div_pow, BitVec.toNat_ofNat]
    omega
  have hlow : (3#4 ++ x : Word).extractLsb' 0 12 = x := by
    simp only [← BitVec.toNat_inj, BitVec.extractLsb'_toNat, hnum, Nat.shiftRight_eq_div_pow]
    omega
  rw [decodeListed, if_neg h3, if_neg h2, if_pos h1, decode1P, if_pos hr, hlow]

/-- A word of a range without a line decodes to itself (R96 to R99). -/
theorem decodeListed_of_lineless (p : ClashPolicy) {w : Word} (h : lineless w = true) :
    decodeListed p w = .ok (.unassigned w) := by
  unfold decodeListed
  split
  · rename_i h3
    rw [lineless_3P h3] at h; cases h
  split
  · rename_i h2
    rw [lineless_2P h2] at h
    unfold decode2P
    split
    case h_42 => rfl
    all_goals
      rename_i hk
      rw [hk] at h
      exact absurd h (by decide)
  split
  · unfold decode1P
    split
    · rename_i hr
      rw [lineless_reserved hr] at h; cases h
    have hform : w.extractLsb' 12 4 = 2#4 := by
      simp only [← BitVec.toNat_inj, BitVec.extractLsb'_toNat, Nat.shiftRight_eq_div_pow, BitVec.toNat_ofNat] at *
      omega
    rw [lineless_1P hform] at h
    split
    case h_16 => rfl
    all_goals
      rename_i hk
      rw [hk] at h
      exact absurd h (by decide)
  split
  · rename_i h1
    rw [lineless_1L h1] at h
    unfold decode1L
    split
    case h_3 => rfl
    all_goals
      rename_i hk
      rw [hk] at h
      exact absurd h (by decide)
  · unfold decode0P
    split
    case h_8 => rfl
    all_goals exact absurd h (by decide)

/-- The first word of a well-formed instruction whose line the policy keeps decodes to the instruction, its literal word not
yet in it. -/
theorem decodeListed_firstWord {p : ClashPolicy} {i : Instr} (hw : i.wf = true)
    (hk : ∀ f, i.clashForm? = some f → p.keeps f.isFirst = true) : decodeListed p i.firstWord = .ok (i.withLit 0#16) := by
  have hlit : ∀ l, i.literal? = some l → l.wf = true := fun _ => Instr.wf_literal hw
  cases i with
  | unassigned w => exact decodeListed_of_lineless p hw
  | reserved x => exact decodeListed_reserved p x
  | jmpRel | callRel =>
    rw [Instr.firstWord, decodeListed_1L p _ _ rfl rfl rfl rfl]
    simp [decode1L, Instr.withLit]
  | nop | sleep | ret | rfi | clrdiverr | bovf | bocf => rfl
  | loadR | loadbR | storeR | storebR =>
    rw [Instr.firstWord, decodeListed_3P p _ _ _ _ rfl]
    simp [decode3P, Instr.withLit]
  | loadL _ l | loadbL _ l | storeL _ l | storebL _ l =>
    rw [Instr.firstWord, decodeListed_3P p _ _ _ _ rfl]
    simp [decode3P, Instr.withLit, Lit.ofField_field (hlit l rfl)]
  | rotrR | mulR | divR =>
    rw [Instr.firstWord, decodeListed_word2P rfl]
    simp [decode2P, Instr.withLit, clashPick_first (hk _ rfl)]
  | rotrL l | mulL l | divL l =>
    rw [Instr.firstWord, decodeListed_word2P rfl]
    simp [decode2P, Instr.withLit, clashPick_first (hk _ rfl), Lit.ofField_field (hlit l rfl)]
  | bbits | bclear | inpR | outR =>
    rw [Instr.firstWord, decodeListed_word2P rfl]
    simp [decode2P, Instr.withLit, clashPick_later (hk _ rfl)]
  | inpL l | outL l =>
    rw [Instr.firstWord, decodeListed_word2P rfl]
    simp [decode2P, Instr.withLit, clashPick_later (hk _ rfl), Lit.ofField_field (hlit l rfl)]
  | getflags =>
    rw [Instr.firstWord, decodeListed_word1P rfl]
    simp [decode1P, Instr.withLit, clashPick_first (hk _ rfl)]
  | setyR =>
    rw [Instr.firstWord, decodeListed_word1P rfl]
    simp [decode1P, Instr.withLit, clashPick_later (hk _ rfl)]
  | notR | negR | xchg | sxtbd | push | pop | getpc | gety | intR | getia | setiaR =>
    rw [Instr.firstWord, decodeListed_word1P rfl]
    simp [decode1P, Instr.withLit]
  | setyL l | intL l | setiaL l =>
    rw [Instr.firstWord, decodeListed_word1P rfl]
    simp [decode1P, Instr.withLit, Lit.ofField_field (hlit l rfl)]
  | addL l | subL l | subcL l | sllL l | srlL l | sraL l | rotlL l | setL l | beqL l | bneqL l | bgL l | bgeL l | bugL l | bugeL l
  | jmpAbs l | callAbs l =>
    rw [Instr.firstWord, decodeListed_word2P rfl]
    simp [decode2P, Instr.withLit, Lit.ofField_field (hlit l rfl)]
  | addR | subR | addcR | subcR | andR | orR | xorR | sllR | srlR | sraR | rotlR | swp | cpy | beqR | bneqR | bgR | bgeR | bugR
  | bugeR =>
    rw [Instr.firstWord, decodeListed_word2P rfl]
    simp [decode2P, Instr.withLit]

end Sys2Proof

namespace Sys2Proof

/-- The words that decode to themselves, as the spec lists them (93_implementation_defined.md section 2). -/
theorem decodeListed_unassigned_iff (p : ClashPolicy) (w v : Word) :
    decodeListed p w = .ok (.unassigned v) ↔ v = w ∧ lineless w = true := by
  constructor
  · intro h
    have hline := isLine_of_decodeListed h
    obtain rfl : v = w := hline.firstWord
    exact ⟨rfl, hline.wf⟩
  · rintro ⟨rfl, h⟩
    exact decodeListed_of_lineless p h

theorem decodeListed_reserved_iff (p : ClashPolicy) (w : Word) (x : BitVec 12) :
    decodeListed p w = .ok (.reserved x) ↔ w = 3#4 ++ x := by
  constructor
  · intro h
    exact (isLine_of_decodeListed h).firstWord.symm
  · rintro rfl
    exact decodeListed_reserved p x

/-- The two lines of a clashing opcode, refused or not (R100). -/
theorem clashPick_eq_error_iff (p : ClashPolicy) (w : Word) (a b : Instr) (e : DecodeError) :
    clashPick p w a b = .error e ↔ e = .clash w ∧ p = .refuse := by
  cases p <;> simp [clashPick, eq_comm]

theorem decode2P_eq_error_iff (p : ClashPolicy) (w : Word) (e : DecodeError) :
    decode2P p w = .error e ↔
      e = .clash w ∧ p = .refuse ∧ 0x52 ≤ (w.extractLsb' 8 8).toNat ∧ (w.extractLsb' 8 8).toNat ≤ 0x57 := by
  unfold decode2P
  split
  case h_19 | h_20 | h_21 | h_22 | h_23 | h_24 =>
    rename_i hk
    simp [clashPick_eq_error_iff, hk]
  case h_42 =>
    have hno : ¬ (0x52 ≤ (w.extractLsb' 8 8).toNat ∧ (w.extractLsb' 8 8).toNat ≤ 0x57) := by
      simp only [imp_false, ← BitVec.toNat_inj, BitVec.toNat_ofNat] at *
      omega
    simp only [hno, and_false, reduceCtorEq]
  all_goals
    rename_i hk
    simp [hk]

theorem decode1P_eq_error_iff (p : ClashPolicy) (w : Word) (e : DecodeError) :
    decode1P p w = .error e ↔ e = .clash w ∧ p = .refuse ∧ w.extractLsb' 4 12 = 0x207#12 := by
  unfold decode1P
  split
  · rename_i hr
    have hno : w.extractLsb' 4 12 ≠ 0x207#12 := by
      simp only [ne_eq, ← BitVec.toNat_inj, BitVec.extractLsb'_toNat, Nat.shiftRight_eq_div_pow, BitVec.toNat_ofNat] at *
      omega
    simp [hno]
  split
  case h_8 =>
    rename_i hk
    simp [clashPick_eq_error_iff, hk]
  case h_16 => simp_all
  all_goals
    rename_i hk
    simp [hk]

/-- The words of the clashing opcodes (R101, R102). -/
def clashing (w : Word) : Prop := 0x5200 ≤ w.toNat ∧ w.toNat ≤ 0x57FF ∨ 0x2070 ≤ w.toNat ∧ w.toNat ≤ 0x207F

/-- The only words that decode to nothing are those of the clashing opcodes, under `refuse` (R100). -/
theorem decodeListed_eq_error_iff (p : ClashPolicy) (w : Word) (e : DecodeError) :
    decodeListed p w = .error e ↔ e = .clash w ∧ p = .refuse ∧ clashing w := by
  have hno (h : ¬ clashing w) : (e = .clash w ∧ p = .refuse ∧ clashing w) ↔ False := by simp [h]
  unfold decodeListed
  split
  · rw [hno]
    · simp
    · simp only [clashing, ← BitVec.toNat_inj, BitVec.extractLsb'_toNat, Nat.shiftRight_eq_div_pow, BitVec.toNat_ofNat] at *
      omega
  split
  · rw [decode2P_eq_error_iff]
    have hrange : (0x52 ≤ (w.extractLsb' 8 8).toNat ∧ (w.extractLsb' 8 8).toNat ≤ 0x57) ↔ clashing w := by
      simp only [clashing, ← BitVec.toNat_inj, BitVec.extractLsb'_toNat, Nat.shiftRight_eq_div_pow, BitVec.toNat_ofNat] at *
      omega
    rw [hrange]
  split
  · rw [decode1P_eq_error_iff]
    have hrange : w.extractLsb' 4 12 = 0x207#12 ↔ clashing w := by
      simp only [clashing, ← BitVec.toNat_inj, BitVec.extractLsb'_toNat, Nat.shiftRight_eq_div_pow, BitVec.toNat_ofNat] at *
      omega
    rw [hrange]
  have hclash : ¬ clashing w := by
    simp only [clashing, ← BitVec.toNat_inj, BitVec.extractLsb'_toNat, Nat.shiftRight_eq_div_pow, BitVec.toNat_ofNat] at *
    omega
  rw [hno hclash]
  split <;> simp

/-- Settles O53: what decodes, decodes by its line, and only `refuse` keeps a word from decoding. -/
theorem decodeTotal : Obligations.DecodeTotal := by
  intro c w hextra
  rw [decodeFirst_eq_listed c w hextra]
  refine ⟨fun hp => ?_, decodeListed_unassigned_iff c.clash w, decodeListed_reserved_iff c.clash w⟩
  cases h : decodeListed c.clash w with
  | ok i => exact ⟨i, rfl, (isLine_of_decodeListed h).wf⟩
  | error e =>
    obtain ⟨_, hrefuse, _⟩ := (decodeListed_eq_error_iff c.clash w e).mp h
    exact absurd hrefuse hp

/-! ### `EXTRA_OPCODES` (R103) -/

/-- Everything that a word can decode to: an instruction by its line, or, without a line, what the first entry for it says. -/
theorem decodeFirst_eq_ok {c : Config} {w : Word} {i : Instr} (h : decodeFirst c w = .ok i) :
    decodeListed c.clash w = .ok i ∨
      decodeListed c.clash w = .ok (.unassigned w) ∧ ∃ e, c.extraAt w = some e ∧ i = e.form.instr w := by
  unfold decodeFirst at h
  split at h
  · rename_i v hv
    obtain ⟨rfl, _⟩ := (decodeListed_unassigned_iff _ _ _).mp hv
    cases h
    unfold Config.extraInstr
    split
    · rename_i e he
      exact .inr ⟨hv, e, he, rfl⟩
    · exact .inl hv
  · exact .inl h

/-- An opcode value without a line covers words without a line only. -/
theorem lineless_of_covers {o : ExtraOpcode} {w : Word} (ho : o.lineless = true) (hc : o.covers w = true) :
    lineless w = true := by
  cases o <;> simp only [ExtraOpcode.covers, Bool.and_eq_true, beq_iff_eq] at hc <;> obtain ⟨hform, hop⟩ := hc <;> subst hop
  · rwa [lineless_2P hform]
  · rwa [lineless_1P hform]
  · rwa [lineless_1L hform]
  · rwa [lineless_0P hform]

/-- A word has one opcode value: its format tells which field it is (R81). -/
theorem covers_unique {o o' : ExtraOpcode} {w : Word} (h : o.covers w = true) (h' : o'.covers w = true) : o = o' := by
  cases o <;> cases o' <;> simp only [ExtraOpcode.covers, Bool.and_eq_true, beq_iff_eq] at h h' <;>
    obtain ⟨hf, ho⟩ := h <;> obtain ⟨hf', ho'⟩ := h'
  case twoParam.twoParam | oneParam.oneParam | longLit.longLit | noParam.noParam => rw [← ho, ← ho']
  all_goals
    simp only [← BitVec.toNat_inj, BitVec.extractLsb'_toNat, Nat.shiftRight_eq_div_pow, BitVec.toNat_ofNat] at hf hf'
    omega

/-- The word built for an opcode value without a line has that opcode value. -/
theorem covers_place {o : ExtraOpcode} (ho : o.lineless = true) (fields : BitVec 8) : o.covers (o.place fields) = true := by
  cases o with
  | twoParam op =>
    have hnum : (op ++ fields : Word).toNat = op.toNat * 256 + fields.toNat := toNat_append op fields
    simp only [ExtraOpcode.lineless, ExtraOpcode.covers, ExtraOpcode.place, Bool.or_eq_true, Bool.and_eq_true,
      decide_eq_true_eq, beq_iff_eq, ← BitVec.toNat_inj, BitVec.extractLsb'_toNat, hnum, Nat.shiftRight_eq_div_pow,
      BitVec.toNat_ofNat] at ho ⊢
    omega
  | oneParam op =>
    have hnum : (op ++ fields.extractLsb' 0 4 : Word).toNat = op.toNat * 16 + (fields.extractLsb' 0 4).toNat :=
      toNat_append op _
    simp only [ExtraOpcode.lineless, ExtraOpcode.covers, ExtraOpcode.place, Bool.or_eq_true, Bool.and_eq_true,
      decide_eq_true_eq, beq_iff_eq, ← BitVec.toNat_inj, BitVec.extractLsb'_toNat, hnum, Nat.shiftRight_eq_div_pow,
      BitVec.toNat_ofNat] at ho ⊢
    omega
  | longLit op =>
    have hnum : (1#4 ++ op ++ 0#1 ++ fields : Word).toNat = ((1 * 2 ^ 3 + op.toNat) * 2 ^ 1 + 0) * 2 ^ 8 + fields.toNat := by
      erw [toNat_append, toNat_append, toNat_append]
      rfl
    simp only [ExtraOpcode.covers, ExtraOpcode.place, Bool.and_eq_true, beq_iff_eq, ← BitVec.toNat_inj,
      BitVec.extractLsb'_toNat, hnum, Nat.shiftRight_eq_div_pow, BitVec.toNat_ofNat]
    omega
  | noParam v =>
    simp only [ExtraOpcode.lineless, ExtraOpcode.covers, ExtraOpcode.place, Bool.or_eq_true, Bool.and_eq_true,
      decide_eq_true_eq, beq_iff_eq, ← BitVec.toNat_inj, BitVec.extractLsb'_toNat, Nat.shiftRight_eq_div_pow,
      BitVec.toNat_ofNat, and_true] at ho ⊢
    omega

/-- In a map every entry is the one found for each word that its opcode value covers. -/
theorem extraAt_of_mem {c : Config} (hc : c.valid = true) {e : ExtraEntry} (he : e ∈ c.extra) {w : Word}
    (hcov : e.opcode.covers w = true) : c.extraAt w = some e := by
  simp only [Config.valid, Bool.and_eq_true, List.all_eq_true, decide_eq_true_eq] at hc
  obtain ⟨hall, hnodup⟩ := hc
  cases hfind : c.extraAt w with
  | none =>
    have hnone := List.find?_eq_none.mp hfind e he
    simp [hcov, (hall e he).2] at hnone
  | some e' =>
    obtain ⟨he', hcov', _⟩ := extraAt_eq_some c w e' hfind
    rw [List.inj_on_of_nodup_map hnodup he' he (covers_unique hcov' hcov)]

/-- The word that an entry of a map gives to an instruction decodes to it (R103). -/
theorem decodeFirst_of_entry {c : Config} (hc : c.valid = true) {e : ExtraEntry} (he : e ∈ c.extra) {i : Instr} {w : Word}
    (hw : e.firstWord? i = some w) : decodeFirst c w = .ok (i.withLit 0#16) := by
  unfold ExtraEntry.firstWord? at hw
  split at hw
  case isFalse => cases hw
  rename_i hform
  cases hw
  have hno : e.opcode.lineless = true := by
    simp only [Config.valid, Bool.and_eq_true, List.all_eq_true] at hc
    exact (hc.1 e he).1
  have hcov := covers_place hno (i.firstWord.extractLsb' 0 8)
  rw [decodeFirst_of_unassigned c _ _ (decodeListed_of_lineless _ (lineless_of_covers hno hcov)), Config.extraInstr,
    extraAt_of_mem hc he hcov]
  exact congrArg _ hform

/-- An instruction whose line the policy keeps decodes from its first word. -/
theorem decodeFirst_firstWord {c : Config} {i : Instr} (hi : i.wf = true) (hu : ∀ v, i ≠ .unassigned v)
    (hk : ∀ f, i.clashForm? = some f → c.clash.keeps f.isFirst = true) :
    decodeFirst c i.firstWord = .ok (i.withLit 0#16) := by
  refine decodeFirst_of_listed c _ _ (decodeListed_firstWord hi hk) ?_
  cases i with
  | unassigned v => exact absurd rfl (hu v)
  | _ => nofun

/-- Where an instruction has a first word under given parameters, that word decodes to it. -/
theorem decodeFirst_firstWordUnder {c : Config} {i : Instr} {w : Word} (hc : c.valid = true) (hi : i.wf = true)
    (h : firstWordUnder c i = some w) : decodeFirst c w = .ok (i.withLit 0#16) := by
  unfold firstWordUnder at h
  split at h
  · rename_i f hf
    split at h
    · rename_i hk
      cases h
      refine decodeFirst_firstWord hi (by rintro v rfl; cases hf) fun f' hf' => ?_
      rw [hf] at hf'
      cases hf'
      exact hk
    · split at h
      · obtain ⟨e, he, hw⟩ := List.exists_of_findSome?_eq_some h
        exact decodeFirst_of_entry hc he hw
      · cases h
  · rename_i hnone
    split at h
    · split at h
      · cases h
      · rename_i hextra
        cases h
        rw [decodeFirst_of_unassigned c w w (decodeListed_of_lineless _ hi), Config.extraInstr,
          Option.not_isSome_iff_eq_none.mp hextra]
        rfl
    · rename_i hu
      cases h
      exact decodeFirst_firstWord hi hu (by simp [hnone])

/-- The octets of a first word and of the literal word after it, read back. -/
theorem decodeOctets_append {c : Config} {w : Word} {i : Instr} (h : decodeFirst c w = .ok (i.withLit 0#16))
    (rest : List Byte) :
    decodeOctets c ((w :: i.literalWords).flatMap (wordOctets c.byteOrder) ++ rest) = .ok (i, rest) := by
  obtain ⟨h1, hnil, hself⟩ | ⟨u, h2, hone, hself, _⟩ := i.literalWords_cases
  · simp only [hnil, List.flatMap_cons, List.flatMap_nil, List.append_nil, wordOctets, List.cons_append, List.nil_append,
      decodeOctets, joinOctets_splitWord, h, h1, if_true, hself]
  · simp only [hone, List.flatMap_cons, List.flatMap_nil, List.append_nil, wordOctets, List.cons_append, List.nil_append,
      decodeOctets, joinOctets_splitWord, h, Instr.words_withLit, h2, OfNat.ofNat_ne_one, if_false, Instr.withLit_withLit,
      hself]

/-- Settles O51: the first word decodes to the instruction by its line or by the entry of the map, and the octets of a word
make the word again. -/
theorem decodeOfEncode : Obligations.DecodeOfEncode := by
  intro c i bs rest hc hi h
  simp only [encodeOctets, encodeUnder_eq, Option.map_map, Option.map_eq_some_iff] at h
  obtain ⟨w, hw, rfl⟩ := h
  exact decodeOctets_append (decodeFirst_firstWordUnder hc hi hw) rest

end Sys2Proof

/-! The skip chain: how long it can be, and from it the statements `SkipChainEnds`, `SkipChainEndless` and
`IllegalWordsRefused`. -/

namespace Sys2Proof.Machine

/-! ### A run of conditionals is shorter than the address space -/

/-- A conditional instruction stands at an address, in plain memory. -/
def ConditionalAt (s : State) (a : Word) (c : Instr) : Prop :=
  s.wordPlain a = true ∧ decodeFirst s.cfg (s.word a) = .ok c ∧ isConditional c = true

theorem isIllegal_of_conditional {c : Instr} (h : isConditional c = true) : isIllegal c = false := by
  cases c with
  | reserved | unassigned => cases h
  | _ => rfl

/-- Two runs of conditionals from one address to another, at which no conditional stands, are equally long. -/
theorem SkipsOver.length_unique {s : State} {q : Word} (hq : ∀ c, ¬ ConditionalAt s q c) {cs ds : List Instr} {pc : Word}
    (hc : SkipsOver s cs pc q) (hd : SkipsOver s ds pc q) : cs.length = ds.length := by
  induction cs generalizing ds pc with
  | nil =>
    cases ds with
    | nil => rfl
    | cons d ds =>
      obtain rfl : q = pc := hc
      obtain ⟨h1, h2, h3, _⟩ := hd
      exact absurd ⟨h1, h2, h3⟩ (hq d)
  | cons c cs ih =>
    obtain ⟨h1, h2, h3, hrest⟩ := hc
    cases ds with
    | nil =>
      obtain rfl : q = pc := hd
      exact absurd ⟨h1, h2, h3⟩ (hq c)
    | cons d ds =>
      obtain ⟨_, h2', _, hrest'⟩ := hd
      cases h2.symm.trans h2'
      exact congrArg (· + 1) (ih hrest hrest')

/-- A run of conditionals passes an address after each of them. -/
theorem SkipsOver.drop {s : State} {q : Word} {cs : List Instr} {pc : Word} (h : SkipsOver s cs pc q) (n : Nat) :
    n ≤ cs.length → ∃ p, SkipsOver s (cs.drop n) p q := by
  induction cs generalizing pc n with
  | nil =>
    intro _
    exact ⟨pc, by simpa using h⟩
  | cons c cs ih =>
    cases n with
    | zero => exact fun _ => ⟨pc, h⟩
    | succ n =>
      obtain ⟨_, _, _, hrest⟩ := h
      exact fun hn => ih hrest n (Nat.le_of_succ_le_succ hn)

/-- A run of conditionals to an address at which none stands meets no address twice: there are 0x10000 of them (log 20). -/
theorem SkipsOver.length_lt {s : State} {q : Word} (hq : ∀ c, ¬ ConditionalAt s q c) {cs : List Instr} {pc : Word}
    (h : SkipsOver s cs pc q) : cs.length < 0x10000 := by
  choose f hf using fun n : Fin (cs.length + 1) => h.drop n.val (Nat.le_of_lt_succ n.isLt)
  have hinj : Function.Injective fun n => (f n).toFin := by
    intro n m hnm
    have hfm : f n = f m := BitVec.toFin_inj.mp hnm
    have hlen := SkipsOver.length_unique hq (hf n) (hfm ▸ hf m)
    rw [List.length_drop, List.length_drop] at hlen
    exact Fin.ext (by omega)
  simpa using Fintype.card_le_of_injective _ hinj

/-- The skip chain after a run of conditionals: at least one round is left for the word that ends it. -/
theorem skipChain_over {s : State} {q : Word} (hq : ∀ c, ¬ ConditionalAt s q c) {cs : List Instr}
    (h : SkipsOver s cs s.pc q) : ∃ n, skipChain s = andThen (skipFrom s (n + 1) q) fun pc => .next (s.setPc pc) := by
  obtain ⟨n, hn⟩ : ∃ n, 0x10000 = n + 1 + cs.length := ⟨0x10000 - cs.length - 1, by have := h.length_lt hq; omega⟩
  refine ⟨n, ?_⟩
  rw [skipChain, hn, skipFrom_over s (n + 1) cs s.pc q h]

/-- Settles O29: the run of conditionals leaves a round for the last instruction, which ends the chain. -/
theorem skipChainEnds : Obligations.SkipChainEnds := by
  rintro s l last e ⟨q, hover, hplain, hdec, hcond, hlegal, rfl⟩
  have hq (c : Instr) : ¬ ConditionalAt s q c := by
    rintro ⟨_, hc, hcc⟩
    cases hdec.symm.trans hc
    simp [hcond] at hcc
  obtain ⟨n, hn⟩ := skipChain_over hq hover
  rw [hn, skipFrom_succ s n q _ last (readWord_plain s _ q hplain) hdec hlegal, hcond]
  rfl

/-- From a set of addresses that conditionals do not leave, the chain runs through every number of rounds. -/
theorem skipFrom_endless {s : State} {met : Word → Prop}
    (h : ∀ a, met a → s.wordPlain a = true ∧ ∃ i, decodeFirst s.cfg (s.word a) = .ok i ∧ isConditional i = true ∧
      met (a + BitVec.ofNat 16 (2 * i.words))) (n : Nat) (a : Word) (ha : met a) :
    skipFrom s n a = .fault .endlessSkip := by
  induction n generalizing a with
  | zero => rfl
  | succ n ih =>
    obtain ⟨hplain, i, hdec, hcond, hnext⟩ := h a ha
    rw [skipFrom_succ s n a _ i (readWord_plain s _ a hplain) hdec (isIllegal_of_conditional hcond), if_pos hcond]
    exact ih _ hnext

/-- Settles O30: each round stays in the set, so no number of rounds ends the chain. -/
theorem skipChainEndless : Obligations.SkipChainEndless := by
  intro s met hpc h
  have hchain : skipChain s = .fault .endlessSkip := by rw [skipChain, skipFrom_endless h _ _ hpc, andThen_fault]
  refine ⟨hchain, fun hof => ?_⟩
  have hbovf : exec .bovf s = conditional s.flags.overflow s := rfl
  rw [hbovf, hof, conditional_false, hchain]

/-- A round of the skip chain over a word that is no instruction, or that decodes to nothing (R161). -/
theorem skipFrom_illegal {s : State} {q : Word} (n : Nat) (hplain : s.wordPlain q = true)
    (h : (∃ i, decodeFirst s.cfg (s.word q) = .ok i ∧ isIllegal i = true) ∨ ∃ e, decodeFirst s.cfg (s.word q) = .error e) :
    skipFrom s (n + 1) q = .refused (.skipOverIllegal (s.word q)) := by
  rw [skipFrom, readWord_plain s _ q hplain, andThen_next]
  obtain ⟨i, hi, hill⟩ | ⟨e, he⟩ := h
  · simp only [hi, hill, if_true]
  · simp only [he]

/-- Settles O55: a word that is no instruction is no conditional either, so it ends the run before it. -/
theorem illegalWordsRefused : Obligations.IllegalWordsRefused := by
  intro s x w i
  refine ⟨rfl, rfl, fun cs q hover hplain hword => ?_⟩
  have hill : (∃ i, decodeFirst s.cfg (s.word q) = .ok i ∧ isIllegal i = true) ∨ ∃ e, decodeFirst s.cfg (s.word q) = .error e := by
    refine hword.imp_left ?_
    rintro ⟨hdec, rfl | rfl⟩
    · exact ⟨_, hdec, rfl⟩
    · exact ⟨_, hdec, rfl⟩
  have hq (c : Instr) : ¬ ConditionalAt s q c := by
    rintro ⟨_, hc, hcc⟩
    obtain ⟨j, hj, hji⟩ | ⟨e, he⟩ := hill
    · cases hj.symm.trans hc
      simp [isIllegal_of_conditional hcc] at hji
    · cases he.symm.trans hc
  obtain ⟨n, hn⟩ := skipChain_over hq hover
  rw [hn, skipFrom_illegal n hplain hill, andThen_refused]

end Sys2Proof.Machine

/-! Fetch and step: the statements `StepRunsDecoded`, `ClashPolicies`, `HardwareInterruptEntered`, `SleepingStep`,
`SleepForGood`, `InServiceIgnoresIntLine` and `StoppedAccesses`. -/

namespace Sys2Proof.Machine

/-! ### A fetch from plain memory (R82, R83) -/

theorem fetch_one {s : State} {i : Instr} (h0 : s.wordPlain s.pc = true) (hd : decodeFirst s.cfg (s.word s.pc) = .ok i)
    (hw : i.words = 1) : fetch s = .next (i, s.setPc (s.pc + 2#16)) := by
  simp only [fetch, readWord_plain s 0 s.pc h0, andThen_next, hd, hw, if_true]

/-- A first word that announces a literal word: what the fetch answers is up to the read of that word. -/
theorem fetch_two {s : State} {i : Instr} (h0 : s.wordPlain s.pc = true) (hd : decodeFirst s.cfg (s.word s.pc) = .ok i)
    (hw : i.words = 2) :
    fetch s = andThen (readWord s 1 (s.pc + 2#16)) fun lit => .next (i.withLit lit, s.setPc (s.pc + 2#16 + 2#16)) := by
  simp only [fetch, readWord_plain s 0 s.pc h0, andThen_next, hd, hw, OfNat.ofNat_ne_one, if_false]

theorem fetch_error {s : State} {e : DecodeError} (h0 : s.wordPlain s.pc = true)
    (hd : decodeFirst s.cfg (s.word s.pc) = .error e) : fetch s = .refused (.clashRefused (s.word s.pc)) := by
  simp only [fetch, readWord_plain s 0 s.pc h0, andThen_next, hd]

/-- A fetch whose first word cannot be read. -/
theorem fetch_stops {s : State} {r : Refusal} (h : ReadStops s s.pc r) : fetch s = .refused r := by
  rw [fetch, readWord_stops s 0 s.pc r h, andThen_refused]

/-- Where the words at PC stand in plain memory, a fetch gives what they decode to, with PC past them. -/
theorem fetch_decoded {s : State} {i : Instr} (h0 : s.wordPlain s.pc = true)
    (h1 : i.words = 2 → s.wordPlain (s.pc + 2#16) = true)
    (hd : decode s.cfg (s.word s.pc) (s.word (s.pc + 2#16)) = .ok i) :
    fetch s = .next (i, s.setPc (s.pc + BitVec.ofNat 16 (2 * i.words))) := by
  unfold decode at hd
  split at hd
  case h_2 => cases hd
  rename_i j hj
  cases hd
  rw [Instr.words_withLit] at h1 ⊢
  obtain ⟨hw, _, hself⟩ | ⟨u, hw, _⟩ := j.literalWords_cases
  · rw [fetch_one h0 hj hw, hw, hself]
  · rw [fetch_two h0 hj hw, readWord_plain s 1 _ (h1 hw), andThen_next, hw, BitVec.add_assoc]
    rfl

/-- Settles O49: the step is a fetch, which gives the decoded instruction, and then `exec`. -/
theorem stepRunsDecoded : Obligations.StepRunsDecoded := by
  intro s i ha hacc h0 h1 hd
  have hf := fetch_decoded (s := s.tick) h0 h1 hd
  rw [step_awake ha hacc, hf, andThen_next]
  rfl

/-- Settles O54: a form comes from its line, which the policy keeps, or from an entry for it, which the policy shadows. -/
theorem clashPolicies : Obligations.ClashPolicies := by
  refine ⟨fun c w i f hd hf => ?_, fun c w e => ?_, fun s e ha hacc h0 hd => ?_⟩
  · obtain hline | ⟨_, e, he, rfl⟩ := decodeFirst_eq_ok hd
    · have hk := (isLine_of_decodeListed hline).keeps f hf
      refine ⟨fun _ => hk, fun hr => ?_, fun hno => ?_⟩
      · rw [hr] at hk; cases hk
      · rw [hk] at hno; cases hno
    · obtain ⟨hmem, hcov, hshadow⟩ := extraAt_eq_some c w e he
      obtain rfl : e.form = f := Option.some.inj ((clashForm_instr e.form w).symm.trans hf)
      refine ⟨fun hnil => ?_, fun hr => ?_, fun _ => ⟨e, hmem, rfl, hcov⟩⟩
      · rw [hnil] at hmem; cases hmem
      · rw [hr] at hshadow; cases hshadow
  · rw [decodeFirst_error_iff, decodeListed_eq_error_iff]
    rfl
  · rw [step_awake ha hacc, fetch_error (s := s.tick) h0 hd, andThen_refused]
    rfl

/-! ### Steps of a CPU at a boundary -/

/-- Settles O44: the step is the entry, and the stack has room for it. -/
theorem hardwareInterruptEntered : Obligations.HardwareInterruptEntered := by
  intro s ha hia hif hlow hroom
  have hacc : (canAccept s && s.pins.intLow) = true := by rw [(canAccept_iff s).mpr ⟨hia, hif⟩, hlow]; rfl
  have hawake : s.tick.setAsleep false = s.tick := by rw [← ha]; rfl
  rw [step_accepts hacc, hawake]
  exact interruptEntry_entered s.tick s.pins.dataBus hroom

/-- Settles O45: the three kinds of step of a sleeping CPU. -/
theorem sleepingStep : Obligations.SleepingStep := by
  intro s ha
  refine ⟨fun hhigh => ?_, fun hlow hc hroom => ?_, fun hlow hc hw => ?_, fun hlow hc hw => ?_⟩
  · rw [step_asleep ha (by simp [hhigh])]
    simp [hhigh]
  · rw [step_accepts (by simp [hlow, hc])]
    exact interruptEntry_entered (s.tick.setAsleep false) s.pins.dataBus hroom
  · rw [step_asleep ha (by simp [hc])]
    simp [hw]
  · rw [step_asleep ha (by simp [hc]), if_pos ⟨hw, hlow⟩]
    rfl

theorem sleepsForGood_iff (s : State) :
    s.sleepsForGood = true ↔ s.asleep = true ∧ s.cfg.sleepWake = .onlyWhenTaken ∧ canAccept s = false := by
  simp [State.sleepsForGood, and_assoc]

/-- A step of a CPU that nothing can wake passes the boundary, whatever stands on the input lines. -/
theorem step_of_sleepsForGood {s : State} (h : s.sleepsForGood = true) : step s = .next s.tick := by
  obtain ⟨ha, hw, hc⟩ := (sleepsForGood_iff s).mp h
  rw [step_asleep ha (by simp [hc])]
  simp [hw]

/-- Settles O46, by induction on the number of steps. -/
theorem sleepForGood : Obligations.SleepForGood := by
  intro n
  induction n with
  | zero => exact fun s _ => rfl
  | succ n ih =>
    intro s h
    rw [run, step_of_sleepsForGood h, andThen_next, ih s.tick h]
    simp [State.tick, Nat.add_assoc, Nat.add_comm 1 n]

/-- Where nothing can be accepted, and a request alone wakes no one, the step depends on the state after the boundary. -/
theorem step_of_not_canAccept {s : State} (hc : canAccept s = false)
    (hw : s.asleep = false ∨ s.cfg.sleepWake = .onlyWhenTaken) :
    step s = if s.asleep then .next s.tick else andThen (fetch s.tick) fun p => exec p.1 p.2 := by
  have hacc : (canAccept s && s.pins.intLow) = false := by rw [hc, Bool.false_and]
  cases ha : s.asleep with
  | false => exact step_awake ha hacc
  | true =>
    rw [step_asleep ha hacc]
    simp [hw.resolve_left (by simp [ha])]

/-- Settles O47: the two states are the same after the boundary, which uses the sample up. -/
theorem inServiceIgnoresIntLine : Obligations.InServiceIgnoresIntLine := by
  intro s p q rest hc hw
  have h (x : Pins) := step_of_not_canAccept (s := { s with inputs := x :: rest }) hc hw
  exact (h p).trans (h q).symm

/-! ### What stops an instruction -/

theorem ReadStops.congr {s t : State} {a : Word} {r : Refusal} (hc : t.cfg = s.cfg) (h : ReadStops s a r) : ReadStops t a r := by
  simpa only [ReadStops, State.kindAt, State.wordAt, hc] using h

theorem EntryStops.congr {s t : State} {r : Refusal} (hc : t.cfg = s.cfg) (hr : t.reg .r15 = s.reg .r15)
    (h : EntryStops s r) : EntryStops t r := by
  simpa only [EntryStops, WriteStops, OctetStops, State.wordWritable, State.writable, State.kindAt, State.wordAt, hc, hr] using h

theorem loadAt_stops {s : State} {a : Word} {r : Refusal} (rc : Reg) (h : ReadStops s a r) : loadAt a rc s = .refused r := by
  rw [loadAt, readWord_stops s 2 a r h, andThen_refused]

theorem loadbAt_stops {s : State} {a : Word} (rc : Reg) (h : s.kindAt a = .empty) :
    loadbAt a rc s = .refused (.emptyRegion a) := by
  simp only [loadbAt, readOctet, h, andThen_refused]

theorem storebAt_stops {s : State} {a : Word} {r : Refusal} (rc : Reg) (h : OctetStops s a r) :
    storebAt a rc s = .refused r := by
  rw [storebAt, writeOctet, mayWrite_stops s a r h, andThen_refused]

theorem callTo_stops {s : State} {r : Refusal} (a : Word) (h : WriteStops s (s.reg .r15 - 2#16) r) :
    callTo a s = .refused r := by
  rw [callTo, push_stops s s.pc r h, andThen_refused]

theorem popThen_stops {s : State} {r : Refusal} (f : Word × State → Result State) (h : ReadStops s (s.reg .r15) r) :
    andThen (pop 2 s) f = .refused r := by
  rw [pop_stops s 2 r h, andThen_refused]

/-- A return from an interrupt whose second word cannot be read. -/
theorem returnFromInterrupt_stops_second {s : State} {r : Refusal} (h1 : s.wordReadable (s.reg .r15) = true)
    (h2 : ReadStops s (s.reg .r15 + 2#16) r) : returnFromInterrupt s = .refused r := by
  obtain ⟨v, hv, _⟩ := pop_frame s 2 h1
  have hstops : ReadStops (((s.setReg .r15 (s.reg .r15 + 2#16)).setReg .r1 v).setInterrupt false)
      (s.reg .r15 + 2#16) r := h2.congr rfl
  rw [returnFromInterrupt, hv, andThen_next, pop_stops _ 3 r hstops, andThen_refused]

theorem softwareInterrupt_stops {s : State} {r : Refusal} (m : Word) (hc : canAccept s = true) (h : EntryStops s r) :
    softwareInterrupt m s = .refused r := by
  rw [softwareInterrupt, if_pos hc, interruptEntry_stops s m r h]

theorem divBy_zero_stops {s : State} {r : Refusal} (rc : Reg) {b : Word} (hb : b = 0#16) (hc : canAccept s = true)
    (h : EntryStops s r) : divBy rc b s = .refused r := by
  have hentry : EntryStops (s.setDivError true) r := h.congr rfl rfl
  rw [divBy, if_pos hb, divisionError, if_pos hc, interruptEntry_stops _ _ r hentry]

/-- INT or DIV by 0, where an interrupt can be accepted and the entry is stopped. -/
theorem exec_entry_stops {s : State} {i : Instr} {rb rc : Reg} {l : Lit} {r : Refusal} (hc : canAccept s = true)
    (h : EntryStops s r)
    (hi : isInt i = true ∨ (i = .divR rb rc ∧ s.reg rb = 0#16) ∨ (i = .divL l rc ∧ litValue l = 0#16)) :
    exec i s = .refused r := by
  obtain hi | ⟨rfl, hb⟩ | ⟨rfl, hb⟩ := hi
  · cases i with
    | intR | intL => exact softwareInterrupt_stops _ hc h
    | _ => cases hi
  · exact divBy_zero_stops rc hb hc h
  · exact divBy_zero_stops rc hb hc h

/-- A skip chain that cannot read on, after any conditionals: their run ends at an address that is no plain memory. -/
theorem skipChain_stops {s : State} {cs : List Instr} {a : Word} {r : Refusal} (hover : SkipsOver s cs s.pc a)
    (h : ReadStops s a r) : skipChain s = .refused r := by
  have hq (c : Instr) : ¬ ConditionalAt s a c := by
    rintro ⟨hplain, _⟩
    have hread := readWord_stops s 0 a r h
    rw [readWord_plain s 0 a hplain] at hread
    cases hread
  obtain ⟨n, hn⟩ := skipChain_over hq hover
  rw [hn, skipFrom, readWord_stops s _ a r h, andThen_refused, andThen_refused]

/-- Settles O13, access by access. -/
theorem stoppedAccesses : Obligations.StoppedAccesses := by
  intro s ra rb rc l d i a r
  refine ⟨fun hi h => ?_, returnFromInterrupt_stops_second, fun hi h => ?_, fun hi h => ?_, fun hi h => ?_,
    fun hc h => ⟨exec_entry_stops hc h, fun hlow => ?_⟩, fun ha hacc => ⟨fun h => ?_, fun h0 hd hw h => ?_⟩,
    fun cs => skipChain_stops⟩
  · obtain ⟨rfl, rfl⟩ | ⟨rfl, rfl⟩ | ⟨rfl | rfl | rfl, rfl⟩ := hi
    · exact loadAt_stops rc h
    · exact loadAt_stops rc h
    · exact popThen_stops _ h
    · exact popThen_stops _ h
    · exact popThen_stops _ h
  · obtain ⟨rfl, rfl⟩ | ⟨rfl, rfl⟩ | ⟨rfl | rfl | rfl, rfl⟩ := hi
    · exact writeWord_stops s _ _ r h
    · exact writeWord_stops s _ _ r h
    · exact push_stops s _ r h
    · exact callTo_stops _ h
    · exact callTo_stops _ h
  · obtain ⟨rfl, rfl⟩ | ⟨rfl, rfl⟩ := hi
    · exact loadbAt_stops rc h
    · exact loadbAt_stops rc h
  · obtain ⟨rfl, rfl⟩ | ⟨rfl, rfl⟩ := hi
    · exact storebAt_stops rc h
    · exact storebAt_stops rc h
  · rw [step_accepts (by simp [hc, hlow])]
    exact interruptEntry_stops _ _ r (h.congr rfl rfl)
  · rw [step_awake ha hacc, fetch_stops (s := s.tick) (h.congr rfl), andThen_refused]
  · have hstops : ReadStops s.tick (s.tick.pc + 2#16) r := h.congr rfl
    rw [step_awake ha hacc, fetch_two (s := s.tick) h0 hd hw, readWord_stops _ _ _ r hstops, andThen_refused, andThen_refused]

end Sys2Proof.Machine

/-! A reset within a step and the end of a run: the statements `ResetWithinStep` and `RunEnds`. -/

namespace Sys2Proof.Machine

/-! ### A reset -/

/-- After a reset event every register is 0, the CPU is awake and no interrupt is acceptable (R45, R280). -/
theorem applyReset_registers (s : State) : (∀ r : Reg, (applyReset s).reg r = 0#16) ∧ flagsWord (applyReset s).flags = 0#16 ∧
    (applyReset s).y = 0#16 ∧ (applyReset s).ia = 0#16 ∧ (applyReset s).pc = 0#16 ∧ (applyReset s).iacq = false ∧
    (applyReset s).asleep = false ∧ canAccept (applyReset s) = false :=
  ⟨fun r => by cases r <;> rfl, (by decide : flagsWord Flags.zero = 0#16), rfl, rfl, rfl, rfl, rfl, rfl⟩

/-- Settles O1: `State.reset` is a state that a reset event leaves. -/
theorem resetState : Obligations.ResetState := by
  have hreset : applyReset State.reset = State.reset := rfl
  obtain ⟨h1, h2, h3, h4, h5, h6, h7, h8⟩ := hreset ▸ applyReset_registers State.reset
  refine ⟨h1, h2, h3, h4, h5, h6, h7, h8, fun s => ?_⟩
  obtain ⟨k1, k2, k3, k4, k5, k6, k7, k8⟩ := applyReset_registers s
  exact ⟨k1, k2, k3, k4, k5, k6, k7, k8, fun _ _ => rfl, rfl, rfl, rfl, rfl, rfl⟩

/-- Settles O3: nothing is listed at reset. -/
theorem resetMemoryCanonical : Obligations.ResetMemoryCanonical := by
  rw [Obligations.ResetMemoryCanonical, State.Inv]
  rfl

/-- A reset within a step is a reset event at a state whose RAM has lost the octets of the step, of whose outputs a first
part has gone out (R280). -/
theorem resetWithin_eq (s : State) : ∃ u out, resetWithin s = applyReset (loseOctets u (stepOctets s)).tick ∧
    u.cfg = s.cfg ∧ u.mem = s.mem ∧ u.outputs = s.outputs ++ out := by
  unfold resetWithin
  split
  · rename_i t h
    obtain ⟨_, _, _, _, out, hout⟩ := stepKeepsParameters s t h
    refine ⟨seenOf s t, out.take (Config.abandonedOutputs s.boundary), rfl, rfl, rfl, ?_⟩
    rw [seenOf, hout, List.take_length_add_append]
  · exact ⟨s, [], rfl, rfl, rfl, (List.append_nil _).symm⟩
  · exact ⟨s, [], rfl, rfl, rfl, (List.append_nil _).symm⟩

theorem entryOctets_eq (s : State) : entryOctets s =
    [s.reg .r15 - 2#16, s.reg .r15 - 2#16 + 1#16, s.reg .r15 - 4#16, s.reg .r15 - 4#16 + 1#16] := rfl

theorem intOctets_of_isInt {i : Instr} (h : isInt i = true) (s : State) : instrOctets i s = intOctets s := by
  cases i with
  | intR | intL => rfl
  | _ => cases h

theorem intOctets_eq (s : State) : intOctets s = if canAccept s = true then entryOctets s else [] := rfl

theorem divOctets_eq (b : Word) (s : State) :
    divOctets b s = if canAccept s = true ∧ b = 0#16 then entryOctets s else [] := by
  simp [divOctets, and_comm]

/-- INT, and DIV by 0, write the octets of an entry where one can be accepted, and none otherwise (log 22). -/
theorem instrOctets_entry {s : State} {i : Instr} {rb rc : Reg} {l : Lit} {b : Word}
    (hi : isInt i = true ∨ (i = .divR rb rc ∧ b = s.reg rb) ∨ (i = .divL l rc ∧ b = litValue l)) :
    (canAccept s = true → isInt i = true ∨ b = 0#16 → instrOctets i s = entryOctets s) ∧
    (canAccept s = false ∨ (isInt i = false ∧ b ≠ 0#16) → instrOctets i s = []) := by
  have hdiv (h : isInt i = false) (hd : instrOctets i s = divOctets b s) :
      (canAccept s = true → isInt i = true ∨ b = 0#16 → instrOctets i s = entryOctets s) ∧
      (canAccept s = false ∨ (isInt i = false ∧ b ≠ 0#16) → instrOctets i s = []) := by
    rw [hd, divOctets_eq, h]
    refine ⟨fun hc hb => if_pos ⟨hc, hb.resolve_left Bool.false_ne_true⟩, fun hno => if_neg ?_⟩
    rintro ⟨hc, hb⟩
    obtain hc' | ⟨_, hb'⟩ := hno
    · rw [hc] at hc'; cases hc'
    · exact hb' hb
  obtain h | ⟨rfl, rfl⟩ | ⟨rfl, rfl⟩ := hi
  · rw [intOctets_of_isInt h, intOctets_eq, h]
    exact ⟨fun hc _ => if_pos hc, fun hno => if_neg (by simpa using hno)⟩
  · exact hdiv rfl rfl
  · exact hdiv rfl rfl

/-- Settles O2: what is lost are the octets of `stepOctets`, which are read off the instruction that the step fetches. -/
theorem resetWithinStep : Obligations.ResetWithinStep := by
  intro s
  obtain ⟨u, out, hu, hcfg, hmem, hout⟩ := resetWithin_eq s
  obtain ⟨lcfg, lout, _, _, lmem⟩ := loseOctets_frame (stepOctets s) u
  obtain ⟨h1, h2, h3, h4, h5, h6, h7, h8⟩ := applyReset_registers (loseOctets u (stepOctets s)).tick
  rw [← hu] at h1 h2 h3 h4 h5 h6 h7 h8
  refine ⟨h1, h2, h3, h4, h5, h6, h7, h8, ?_, fun x hx => ?_, ⟨out, ?_⟩, fun h => ?_, fun h ha => stepOctets_asleep ha h,
    fun i t hacc ha hf => ?_⟩
  · rw [hu]
    exact lcfg.trans hcfg
  · rw [hu]
    refine (lmem x hx).trans ?_
    rw [State.octet, hmem]
    rfl
  · rw [hu]
    exact lout.trans hout
  · exact (stepOctets_accepts h).trans (entryOctets_eq s)
  · obtain ⟨pc, rfl⟩ := fetch_state hf
    rw [stepOctets_awake ha hacc hf]
    refine ⟨fun hw => instrOctets_of_not_writesRam i _ hw, fun ra rb rc l a hi => ?_, fun ra rb rc l a hi => ?_,
      fun rc l d hi => ?_, fun rb rc l b hi => instrOctets_entry hi⟩
    · obtain ⟨rfl, rfl⟩ | ⟨rfl, rfl⟩ := hi <;> rfl
    · obtain ⟨rfl, rfl⟩ | ⟨rfl, rfl⟩ := hi <;> rfl
    · obtain rfl | rfl | rfl := hi <;> rfl

/-! ### The end of a run (R287, log 13) -/

theorem runEnded_succ {s t : State} (n : Nat) (h : step s = .next t) :
    runEnded (n + 1) s = (s.atEnd || (stepEnds s t || runEnded n t)) := by
  rw [runEnded, h]

/-- A run that has ended stays so. -/
theorem runEnded_mono (n : Nat) (s : State) (h : runEnded n s = true) : runEnded (n + 1) s = true := by
  induction n generalizing s with
  | zero =>
    have hend : s.atEnd = true := h
    rw [runEnded, hend, Bool.true_or]
  | succ n ih =>
    rw [runEnded, Bool.or_eq_true] at h ⊢
    refine h.imp_right fun h => ?_
    cases hs : step s with
    | next t =>
      simp only [hs, Bool.or_eq_true] at h ⊢
      exact h.imp_right (ih t)
    | fault e => simp [hs] at h
    | refused e => simp [hs] at h

/-- Under a convention that looks at what is written, one step decides by what it writes. -/
theorem runEnded_one {s t : State} (h : step s = .next t) (hs : ∀ u : State, u.cfg = s.cfg → u.atEnd = false) :
    runEnded 1 s = stepEnds s t := by
  obtain ⟨_, _, _, heff⟩ := step_effect h
  have ht : runEnded 0 t = false := hs t heff.cfg
  rw [runEnded_succ 0 h, hs s rfl, ht, Bool.false_or, Bool.or_false]

/-- Settles O60, convention by convention. -/
theorem runEnds : Obligations.RunEnds := by
  refine ⟨runEnded_mono, fun s hh => ?_, fun s hh => ?_, fun s t a hh h => ?_, fun s t p hh h => ?_⟩
  · have hend : runEnded 0 s = s.sleepsForGood := by rw [runEnded, State.atEnd, hh]
    have hc : canAccept s = false ↔ s.ia = 0#16 ∨ s.flags.interrupt = true := by simp [canAccept, or_iff_not_imp_left]
    rw [hend, sleepsForGood_iff, hc]
  · have hend : runEnded 0 s = s.jumpsToSelf := by rw [runEnded, State.atEnd, hh]
    rw [hend]
    simp [State.jumpsToSelf, and_assoc]
  · have hone : runEnded 1 s = (stepOctets s).contains a := by
      rw [runEnded_one h fun u hu => by rw [State.atEnd, hu, hh], stepEnds, hh]
    have hiff : runEnded 1 s = true ↔ a ∈ stepOctets s := by rw [hone, List.contains_iff_mem]
    refine ⟨hiff, fun hno => (stepWritesItsOctets s t h).1 a fun ha => ?_⟩
    rw [hiff.mpr ha] at hno
    cases hno
  · obtain ⟨_, _, _, _, out, hout⟩ := stepKeepsParameters s t h
    rw [runEnded_one h fun u hu => by rw [State.atEnd, hu, hh], stepEnds, hh, hout, List.drop_left]
    constructor
    · intro hany
      obtain ⟨o, ho, hport⟩ := List.any_eq_true.mp hany
      cases o with
      | io q v =>
        obtain rfl : q = p := eq_of_beq hport
        exact ⟨out, v, rfl, ho⟩
      | mem a b => cases hport
    · rintro ⟨out', v, heq, ho⟩
      rw [List.append_cancel_left heq]
      exact List.any_eq_true.mpr ⟨.io p v, ho, beq_self_eq_true p⟩

end Sys2Proof.Machine

/-! What an instruction can do to FLAGS, Y, IA and sleep, and from it the statements `FlagWriters`, `SpecialWriters` and the last
part of `ReturnFromInterrupt`. -/

namespace Sys2Proof.Machine

/-! ### Y, IA and sleep after each shared operation -/

theorem SameSpecial.trans {s t u : State} (h : SameSpecial s t) (k : SameSpecial t u) : SameSpecial s u := by
  obtain ⟨h1, h2, h3⟩ := h
  obtain ⟨k1, k2, k3⟩ := k
  exact ⟨k1.trans h1, k2.trans h2, k3.trans h3⟩

theorem writeOctet_special {s t : State} {a : Word} {v : Byte} (h : writeOctet s a v = .next t) : SameSpecial s t := by
  obtain ⟨_, rfl⟩ := writeOctet_eq_next s t a v h
  simp [SameSpecial]

theorem writeWord_special {s t : State} {a v : Word} (h : writeWord s a v = .next t) : SameSpecial s t := by
  obtain ⟨_, rfl⟩ := writeWord_eq_next s t a v h
  simp [SameSpecial]

theorem push_special {s t : State} {v : Word} (h : push v s = .next t) : SameSpecial s t := by
  obtain ⟨_, rfl⟩ := push_eq_next s t v h
  simp [SameSpecial]

theorem pop_special {s : State} {k : Nat} {p : Word × State} (h : pop k s = .next p) : SameSpecial s p.2 := by
  rw [(pop_eq_next s k p h).2]
  exact ⟨rfl, rfl, rfl⟩

theorem interruptEntry_special {s t : State} {m : Word} (h : interruptEntry m s = .next t) : SameSpecial s t := by
  obtain ⟨s1, s2, h1, h2, rfl⟩ := interruptEntry_eq_next s t m h
  exact ((push_special h1).trans (push_special h2)).trans ⟨rfl, rfl, rfl⟩

theorem returnFromInterrupt_special {s t : State} (h : returnFromInterrupt s = .next t) : SameSpecial s t := by
  obtain ⟨p, q, hp, hq, rfl⟩ := returnFromInterrupt_eq_next s t h
  have hmid : SameSpecial s ((p.2.setReg .r1 p.1).setInterrupt false) := (pop_special hp).trans ⟨rfl, rfl, rfl⟩
  exact (hmid.trans (pop_special hq)).trans ⟨rfl, rfl, rfl⟩

theorem conditional_special {test : Bool} {s t : State} (h : conditional test s = .next t) : SameSpecial s t := by
  obtain ⟨_, rfl⟩ | ⟨_, pc, _, rfl⟩ := conditional_eq_next test s t h
  · exact .refl _
  · exact ⟨rfl, rfl, rfl⟩

/-! ### Everything an instruction can do to FLAGS, Y, IA and sleep -/

/-- How FLAGS, Y, IA and sleep of a state `t` that an instruction answers differ from those of `s` (R30, R37, R38, R42). -/
inductive Control (i : Instr) (s t : State) : Prop where
  | same (hf : t.flags = s.flags) (hx : SameSpecial s t)
  | addSub (hi : isAddSub i = true) (c o : Bool) (hf : t.flags = { s.flags with carry := c, overflow := o })
      (hx : SameSpecial s t)
  | shift (hi : isShift i = true) (c : Bool) (hf : t.flags = { s.flags with carry := c }) (hx : SameSpecial s t)
  | entry (hi : isInt i = true) (hf : t.flags = { s.flags with interrupt := true }) (hx : SameSpecial s t)
  | divError (hi : isDiv i = true) (b : Bool) (hb : b = true ∨ b = s.flags.interrupt)
      (hf : t.flags = { s.flags with divError := true, interrupt := b }) (hx : SameSpecial s t)
  | endOfService (hi : i = .rfi) (hf : t.flags = { s.flags with interrupt := false }) (hx : SameSpecial s t)
  | clearError (hi : i = .clrdiverr) (hf : t.flags = { s.flags with divError := false }) (hx : SameSpecial s t)
  | yWritten (hi : writesY i = true) (hf : t.flags = s.flags) (hia : t.ia = s.ia) (ha : t.asleep = s.asleep)
  | iaWritten (hi : writesIa i = true) (hf : t.flags = s.flags) (hy : t.y = s.y) (ha : t.asleep = s.asleep)
  | fallAsleep (hi : i = .sleep) (hf : t.flags = s.flags) (hy : t.y = s.y) (hia : t.ia = s.ia)

namespace Control

variable {i : Instr} {s t : State}

/-- An operation that goes on, with a value read, to states with FLAGS, Y, IA and sleep of `s`. -/
theorem of_andThen {α : Type} {x : Result α} {f : α → State} (h : (andThen x fun a => .next (f a)) = .next t)
    (hf : ∀ a, x = .next a → (f a).flags = s.flags ∧ SameSpecial s (f a)) : Control i s t := by
  obtain ⟨a, ha, hfa⟩ := (andThen_eq_next _ _ _).mp h
  cases hfa
  exact .same (hf a ha).1 (hf a ha).2

theorem conditional {test : Bool} (h : conditional test s = .next t) : Control i s t :=
  .same (conditional_flags h) (conditional_special h)

theorem softwareInterrupt {m : Word} (hi : isInt i = true) (h : softwareInterrupt m s = .next t) : Control i s t := by
  obtain ⟨_, he⟩ | ⟨_, rfl⟩ := softwareInterrupt_eq_next s t m h
  · exact .entry hi (interruptEntry_flags he) (interruptEntry_special he)
  · exact .same rfl (.refl _)

theorem divBy {rc : Reg} {b : Word} (hi : isDiv i = true) (hy : writesY i = true) (h : divBy rc b s = .next t) :
    Control i s t := by
  unfold Machine.divBy at h
  split at h
  · obtain ⟨_, he⟩ | ⟨_, rfl⟩ := divisionError_eq_next s t h
    · have hx : SameSpecial (s.setDivError true) t := interruptEntry_special he
      exact .divError hi true (.inl rfl) (interruptEntry_flags he) hx
    · exact .divError hi s.flags.interrupt (.inr rfl) rfl ⟨rfl, rfl, rfl⟩
  · cases h
    exact .yWritten hy rfl rfl rfl

end Control

/-- Everything an instruction can do to FLAGS, Y, IA and sleep. -/
theorem exec_control {i : Instr} {s t : State} (h : exec i s = .next t) : Control i s t := by
  cases i with
  | loadL | loadR | loadbL | loadbR => exact .of_andThen h fun _ _ => ⟨rfl, rfl, rfl, rfl⟩
  | storeL | storeR => exact .same (writeWord_flags h) (writeWord_special h)
  | storebL | storebR => exact .same (writeOctet_flags h) (writeOctet_special h)
  | push => exact .same (push_flags h) (push_special h)
  | pop | ret => exact .of_andThen h fun p hp => ⟨pop_flags hp, (pop_special hp).trans ⟨rfl, rfl, rfl⟩⟩
  | callAbs | callRel => exact .of_andThen h fun u hu => ⟨push_flags (t := u) hu, (push_special (t := u) hu).trans ⟨rfl, rfl, rfl⟩⟩
  | intR | intL => exact .softwareInterrupt rfl h
  | divR | divL => exact .divBy rfl rfl h
  | rfi => exact .endOfService rfl (returnFromInterrupt_flags h) (returnFromInterrupt_special h)
  | reserved | unassigned => exact absurd h (illegalWordStop_ne_next _ s t)
  | beqR | beqL | bneqR | bneqL | bgR | bgL | bgeR | bgeL | bugR | bugL | bugeR | bugeL | bbits | bclear | bovf | bocf =>
    exact .conditional h
  | inpR | inpL =>
    cases (inpFrom_eq _ _ s).symm.trans h
    exact .same rfl ⟨rfl, rfl, rfl⟩
  | addR | addL | addcR | subR | subL | subcR | subcL =>
    cases h
    exact .addSub rfl _ _ rfl ⟨rfl, rfl, rfl⟩
  | sllR | sllL | srlR | srlL | sraR | sraL =>
    cases h
    exact .shift rfl _ rfl ⟨rfl, rfl, rfl⟩
  | mulR | mulL | setyR | setyL =>
    cases h
    exact .yWritten rfl rfl rfl rfl
  | setiaR | setiaL =>
    cases h
    exact .iaWritten rfl rfl rfl rfl
  | sleep =>
    cases h
    exact .fallAsleep rfl rfl rfl rfl
  | clrdiverr =>
    cases h
    exact .clearError rfl rfl ⟨rfl, rfl, rfl⟩
  | andR | orR | xorR | notR | negR | rotlR | rotlL | rotrR | rotrL | swp | cpy | setL | xchg | sxtbd | getpc | getflags
  | gety | getia | outR | outL | jmpAbs | jmpRel | nop =>
    cases h
    exact .same rfl ⟨rfl, rfl, rfl⟩

/-- Settles O56: each way in which FLAGS can change is that of the writers the statement names. -/
theorem flagWriters : Obligations.FlagWriters := by
  intro i s t h
  cases exec_control h with
  | same hf | yWritten _ hf | iaWritten _ hf | fallAsleep _ hf => rw [hf]; simp_all
  | addSub hi c o hf | shift hi c hf => rw [hf]; simp_all
  | entry hi hf | endOfService hi hf | clearError hi hf => rw [hf]; simp_all
  | divError hi b hb hf =>
    rw [hf]
    obtain rfl | rfl := hb <;> simp_all

/-- Settles O57: each way in which Y, IA or sleep can change is that of the writers the statement names. -/
theorem specialWriters : Obligations.SpecialWriters := by
  intro i s t h
  cases exec_control h with
  | same _ hx | addSub _ _ _ _ hx | shift _ _ _ hx | entry _ _ hx | divError _ _ _ _ hx | endOfService _ _ hx
  | clearError _ _ hx =>
    obtain ⟨hy, hia, ha⟩ := hx
    exact ⟨fun hn => absurd hy hn, fun hn => absurd hia hn, fun hn => absurd ha hn⟩
  | yWritten hi _ hia ha => exact ⟨fun _ => hi, fun hn => absurd hia hn, fun hn => absurd ha hn⟩
  | iaWritten hi _ hy ha => exact ⟨fun hn => absurd hy hn, fun _ => hi, fun hn => absurd ha hn⟩
  | fallAsleep hi _ hy hia => exact ⟨fun hn => absurd hy hn, fun hn => absurd hia hn, fun _ => hi⟩

/-- RFI alone lowers the IACQ line (R34, R224). -/
theorem rfi_of_iacq_lowered {i : Instr} {s t : State} (h : exec i s = .next t) (hs : s.iacq = true) (ht : t.iacq = false) :
    i = .rfi := by
  obtain ⟨_, _, _, _, _, hlowered⟩ := flagWriters i s t h
  exact hlowered hs ht

end Sys2Proof.Machine

/-! Registers, RAM and the stack: the statements `RegisterFile`, `WordWriteThenRead`, `LoadCompletes`, `LoadByteCompletes`,
`StoreCompletes`, `StoreByteCompletes`, `CallCompletes`, `RetCompletes`, `PushPopComplete` and `ReturnFromInterrupt`. -/

namespace Sys2Proof.Machine

/-- Settles O6. -/
theorem registerFile : Obligations.RegisterFile := by
  intro s r v
  obtain ⟨_, hsame⟩ := regBecomes_setReg s r v
  exact ⟨rfl, State.reg_setReg_self s r v, hsame, rfl, rfl, rfl⟩

/-! ### A word stored and read again -/

theorem wordRam_iff (s : State) (a : Word) :
    s.wordRam a = true ↔ s.wordAt a = true ∧ s.isRam a = true ∧ s.isRam (a + 1#16) = true := by
  simp [State.wordRam, and_assoc]

/-- The two octets of a word that has been stored into RAM (R55). -/
theorem octets_of_stored {s t : State} {a v : Word} {puts : List (Word × Byte)} (h : Stored s t puts)
    (hsub : wordPuts s a v ⊆ puts) (hram : s.wordRam a = true) :
    t.octet a = (splitWord s.cfg.byteOrder v).1 ∧ t.octet (a + 1#16) = (splitWord s.cfg.byteOrder v).2 := by
  obtain ⟨_, h0, h1⟩ := (wordRam_iff s a).mp hram
  obtain ⟨hoct, _, _⟩ := h
  have e0 := hoct (a, (splitWord s.cfg.byteOrder v).1) (hsub (by simp [wordPuts]))
  have e1 := hoct (a + 1#16, (splitWord s.cfg.byteOrder v).2) (hsub (by simp [wordPuts]))
  simp only [h0, h1, if_true] at e0 e1
  exact ⟨e0, e1⟩

/-- A word that has been stored, its octets in RAM, reads as what was stored (R53, R55). -/
theorem word_of_stored {s t : State} {a v : Word} {puts : List (Word × Byte)} (h : Stored s t puts)
    (hsub : wordPuts s a v ⊆ puts) (hram : s.wordRam a = true) (hc : t.cfg = s.cfg) : t.word a = v := by
  obtain ⟨e0, e1⟩ := octets_of_stored h hsub hram
  rw [State.word, e0, e1, hc, joinOctets_splitWord]

theorem wordPlain_of_wordRam {s t : State} {a : Word} (hc : t.cfg = s.cfg) (h : s.wordRam a = true) :
    t.wordPlain a = true := by
  obtain ⟨hw, h0, h1⟩ := (wordRam_iff s a).mp h
  have hplain : s.wordPlain a = true := by simp [State.wordPlain, hw, plain_of_isRam h0, plain_of_isRam h1]
  simpa only [State.wordPlain, State.plain, State.kindAt, State.wordAt, hc] using hplain

theorem wordWritable_of_wordRam {s : State} {a : Word} (h : s.wordRam a = true) : s.wordWritable a = true := by
  obtain ⟨hw, h0, h1⟩ := (wordRam_iff s a).mp h
  simp [State.wordWritable, hw, writable_of_isRam h0, writable_of_isRam h1]

/-- What a store of a word that can be written answers. -/
theorem writeWord_frame (s : State) (a v : Word) (h : s.wordWritable a = true) :
    ∃ t, writeWord s a v = .next t ∧ Stored s t (wordPuts s a v) ∧ SameRegs s t [] ∧ t.pc = s.pc ∧ t.flags = s.flags ∧
      SameSpecial s t ∧ SameWorld s t :=
  ⟨_, writeWord_of_writable s a v h, stored_putWord s a v h, fun q _ => by simp, by simp, by simp, by simp [SameSpecial],
    by simp [SameWorld]⟩

/-- Settles O8: the two octets have been stored, in the order of the parameters. -/
theorem wordWriteThenRead : Obligations.WordWriteThenRead := by
  intro s k a v hram
  obtain ⟨t, ht, hstored, hregs, hpc, hflags, hspecial, hworld⟩ := writeWord_frame s a v (wordWritable_of_wordRam hram)
  have hcfg : t.cfg = s.cfg := hworld.cfg
  have hword : t.word a = v := word_of_stored hstored (List.Subset.refl _) hram hcfg
  obtain ⟨e0, e1⟩ := octets_of_stored hstored (List.Subset.refl _) hram
  obtain ⟨_, hmem, hout⟩ := hstored
  have hnone : s.deviceOutputs (wordPuts s a v) = [] := by
    obtain ⟨_, h0, h1⟩ := (wordRam_iff s a).mp hram
    simp only [State.isRam, beq_iff_eq] at h0 h1
    simp [State.deviceOutputs, wordPuts, h0, h1]
  have hplain : t.wordPlain a = true := wordPlain_of_wordRam hcfg hram
  refine ⟨t, ht, ?_, hmem, hregs, hpc, hflags, ⟨hspecial, ?_, hworld⟩, fun ho => ?_, fun ho => ?_⟩
  · rw [readWord_plain t k a hplain, hword]
  · rw [hout]
    exact (congrArg _ hnone).trans (List.append_nil _)
  · rw [e0, e1, ho]
    exact ⟨rfl, rfl⟩
  · rw [e0, e1, ho]
    exact ⟨rfl, rfl⟩

/-! ### LOAD and STORE (40_ram.md) -/

theorem loadAt_frame (s : State) (a : Word) (rc : Reg) (h : s.wordReadable a = true) :
    ∃ t v, loadAt a rc s = .next t ∧ OnlyReg s t rc v ∧ (s.wordPlain a = true → v = s.word a) := by
  obtain ⟨v, hv⟩ := readWord_next_of_readable s 2 a h
  refine ⟨s.setReg rc v, v, by rw [loadAt, hv, andThen_next], onlyReg_setReg s rc v, fun hp => ?_⟩
  rw [readWord_plain s 2 a hp] at hv
  cases hv
  rfl

/-- Settles O9: LOAD reads the word at its effective address into REG3. -/
theorem loadCompletes : Obligations.LoadCompletes :=
  fun s ra rb rc l => ⟨loadAt_frame s (s.reg ra + s.reg rb) rc, loadAt_frame s (s.reg ra + litValue l) rc⟩

/-- The low byte of what LOAD.B writes is the octet, the high byte as `LOADB_HIGH` says (R122). -/
theorem loadbValue_low (h : LoadbHigh) (free : Byte) (old : Word) (b : Byte) :
    (loadbValue h free old b).extractLsb' 0 8 = b := by
  cases h <;> exact BitVec.extractLsb'_append_eq_right

theorem loadbValue_high (h : LoadbHigh) (free : Byte) (old : Word) (b : Byte) :
    (h = .zero → (loadbValue h free old b).extractLsb' 8 8 = 0#8) ∧
    (h = .preserve → (loadbValue h free old b).extractLsb' 8 8 = old.extractLsb' 8 8) := by
  constructor <;> rintro rfl <;> exact BitVec.extractLsb'_append_eq_left

/-- Settles O10: LOAD.B reads the octet at its effective address into the low byte of REG3. -/
theorem loadByteCompletes : Obligations.LoadByteCompletes := by
  intro s ra rb rc l i a hi h
  have hexec : exec i s = loadbAt a rc s := by obtain ⟨rfl, rfl⟩ | ⟨rfl, rfl⟩ := hi <;> rfl
  obtain ⟨b, hb⟩ := readOctet_next_of_readable s 2 a h
  obtain ⟨hzero, hpreserve⟩ := loadbValue_high s.cfg.loadbHigh (Config.freeHighByte s.boundary) (s.reg rc) b
  refine ⟨_, _, by rw [hexec, loadbAt, hb, andThen_next], onlyReg_setReg s rc _, fun hp => ?_, hzero, hpreserve⟩
  rw [readOctet_plain s 2 a hp] at hb
  cases hb
  exact loadbValue_low _ _ _ _

/-- Settles O11: STORE is a write of the word of REG3. -/
theorem storeCompletes : Obligations.StoreCompletes := by
  intro s ra rb rc l i a hi h
  have hexec : exec i s = writeWord s a (s.reg rc) := by obtain ⟨rfl, rfl⟩ | ⟨rfl, rfl⟩ := hi <;> rfl
  rw [hexec]
  exact writeWord_frame s a (s.reg rc) h

/-- Settles O12: STORE.B is a write of the low byte of REG3. -/
theorem storeByteCompletes : Obligations.StoreByteCompletes := by
  intro s ra rb rc l i a hi h
  have hexec : exec i s = writeOctet s a ((s.reg rc).extractLsb' 0 8) := by
    obtain ⟨rfl, rfl⟩ | ⟨rfl, rfl⟩ := hi <;> rfl
  rw [hexec]
  exact ⟨_, writeOctet_of_writable s a _ h, stored_putOctet s a _ h, sameRegs_putOctet s a _, by simp, by simp,
    by simp [SameSpecial], by simp [SameWorld]⟩

/-! ### CALL, RET, PUSH, POP (44_jump.md, 45_stack.md) -/

/-- The target of a relative jump or call: the exact sum, modulo 2^16 (R91, R192). -/
theorem relTarget_eq (d : BitVec 9) (s : State) : relTarget d s = BitVec.ofInt 16 ((s.pc.toNat : Int) + d.toInt) := by
  rw [BitVec.ofInt_add, BitVec.ofInt_natCast, BitVec.ofNat_toNat, BitVec.setWidth_eq]
  rfl

/-- Settles O34: the meaning is a jump to the target. -/
theorem jmpRelativeCompletes : Obligations.JmpRelativeCompletes := by
  intro s d
  have hjump : exec (.jmpRel d) s = .next (s.setPc (relTarget d s)) := rfl
  exact ⟨_, hjump, relTarget_eq d s, sameRegs_setPc s _, rfl, sameMem_setPc s _, sameOther_setPc s _⟩

/-- Settles O35: a call is a push of PC and then a jump to the target from before the push. -/
theorem callCompletes : Obligations.CallCompletes := by
  intro s rc l d i target hi h
  have hexec : exec i s = callTo target s := by
    obtain ⟨rfl, rfl⟩ | ⟨rfl, rfl⟩ := hi
    · rfl
    · rw [← relTarget_eq]; rfl
  obtain ⟨t, ht, hsp, hregs, hstored, _, hflags, hspecial, hworld⟩ := push_frame s s.pc h
  exact ⟨t.setPc target, by rw [hexec, callTo, ht, andThen_next], rfl, hsp, hregs, hstored, hflags, hspecial, hworld⟩

/-- Settles O36: a return is a pop and a jump to the word. -/
theorem retCompletes : Obligations.RetCompletes := by
  intro s h
  obtain ⟨v, hv, hplain⟩ := pop_frame s 2 h
  have hexec : exec .ret s = .next ((s.setReg .r15 (s.reg .r15 + 2#16)).setPc v) := by
    show andThen (pop 2 s) _ = _
    rw [hv, andThen_next]
  obtain ⟨hsp, hregs⟩ := regBecomes_setReg s .r15 (s.reg .r15 + 2#16)
  exact ⟨_, v, hexec, rfl, hplain, hsp, hregs, rfl, fun _ _ => rfl, .refl s⟩

/-- Settles O37: PUSH is a push of REG3 as it was, POP a pop whose register is written after SP. -/
theorem pushPopComplete : Obligations.PushPopComplete := by
  intro s rc
  refine ⟨push_frame s (s.reg rc), fun h => ?_⟩
  obtain ⟨v, hv, hplain⟩ := pop_frame s 2 h
  have hexec : exec (.pop rc) s = .next ((s.setReg .r15 (s.reg .r15 + 2#16)).setReg rc v) := by
    show andThen (pop 2 s) _ = _
    rw [hv, andThen_next]
  refine ⟨_, v, hexec, hplain, (regBecomes_setReg _ rc v).1, fun hne => ?_, fun q hq => ?_, rfl, rfl, fun _ _ => rfl,
    .refl s⟩
  · rw [State.reg_setReg_of_ne _ rc .r15 v hne.symm]
    exact State.reg_setReg_self s .r15 _ (by decide)
  · simp only [List.mem_cons, List.not_mem_nil, or_false, not_or] at hq
    obtain ⟨hqc, hqsp⟩ := hq
    rw [State.reg_setReg_of_ne _ rc q v hqc, State.reg_setReg_of_ne s .r15 q _ hqsp]

/-! ### The return from an interrupt (60_exceptions.md section 5) -/

/-- What a return from an interrupt answers where both words can be read (R224, R255). -/
theorem returnFromInterrupt_frame (s : State) (h1 : s.wordReadable (s.reg .r15) = true)
    (h2 : s.wordReadable (s.reg .r15 + 2#16) = true) :
    ∃ t v1 v2, exec .rfi s = .next t ∧
      (s.wordPlain (s.reg .r15) = true → v1 = s.word (s.reg .r15)) ∧
      (s.wordPlain (s.reg .r15 + 2#16) = true → v2 = s.word (s.reg .r15 + 2#16)) ∧
      t.reg .r1 = v1 ∧ t.pc = v2 ∧ t.reg .r15 = s.reg .r15 + 4#16 ∧ SameRegs s t [.r1, .r15] ∧
      t.flags = { s.flags with interrupt := false } ∧ t.iacq = false ∧ SameMem s t [] ∧ SameOther s t := by
  obtain ⟨v1, hv1, hplain1⟩ := pop_frame s 2 h1
  have hsp : (((s.setReg .r15 (s.reg .r15 + 2#16)).setReg .r1 v1).setInterrupt false).reg .r15 = s.reg .r15 + 2#16 := rfl
  obtain ⟨v2, hv2, hplain2⟩ :=
    pop_frame (((s.setReg .r15 (s.reg .r15 + 2#16)).setReg .r1 v1).setInterrupt false) 3 (by rw [hsp]; exact h2)
  rw [hsp, BitVec.add_assoc] at hv2
  rw [hsp] at hplain2
  refine ⟨((((s.setReg .r15 (s.reg .r15 + 2#16)).setReg .r1 v1).setInterrupt false).setReg .r15 (s.reg .r15 + 4#16)).setPc v2,
    v1, v2, ?_, hplain1, hplain2, rfl, rfl, rfl, fun q hq => ?_, rfl, rfl, fun _ _ => rfl, .refl s⟩
  · show returnFromInterrupt s = _
    rw [returnFromInterrupt, hv1, andThen_next, hv2, andThen_next]
    rfl
  · simp only [List.mem_cons, List.not_mem_nil, or_false, not_or] at hq
    obtain ⟨hq1, hqsp⟩ := hq
    exact (State.reg_setReg_of_ne _ .r15 q _ hqsp).trans
      ((State.reg_setReg_of_ne (s.setReg .r15 (s.reg .r15 + 2#16)) .r1 q v1 hq1).trans (State.reg_setReg_of_ne s .r15 q _ hqsp))

/-- The two words that an interrupt entry leaves on a stack in RAM: R1 at SP and PC above it (R250). -/
theorem stack_of_entered {s t : State} {m : Word} (h : Entered s t m) (h2 : s.wordRam (s.reg .r15 - 2#16) = true)
    (h4 : s.wordRam (s.reg .r15 - 4#16) = true) :
    t.word (t.reg .r15) = s.reg .r1 ∧ t.word (t.reg .r15 + 2#16) = s.pc := by
  obtain ⟨hsp, _, _, _, _, hstored, _, hworld⟩ := h
  have hup : s.reg .r15 - 4#16 + 2#16 = s.reg .r15 - 2#16 := by bv_omega
  rw [hsp, hup]
  exact ⟨word_of_stored hstored (List.subset_append_right _ _) h4 hworld.cfg,
    word_of_stored hstored (List.subset_append_left _ _) h2 hworld.cfg⟩

end Sys2Proof.Machine

namespace Sys2Proof

open Machine in
/-- Settles O43: RFI pops what the entry pushed. -/
theorem returnFromInterrupt : Obligations.ReturnFromInterrupt := by
  refine ⟨returnFromInterrupt_frame, fun s t u m hram2 hram4 ht husp hucfg hw1 hw2 => ?_, fun i s t => rfi_of_iacq_lowered⟩
  have hroom : s.entryWritable = true := by
    rw [State.entryWritable, wordWritable_of_wordRam hram2, wordWritable_of_wordRam hram4]; rfl
  obtain ⟨t', ht', hent⟩ := interruptEntry_entered s m hroom
  cases ht.symm.trans ht'
  obtain ⟨hst1, hst2⟩ := stack_of_entered hent hram2 hram4
  obtain ⟨hsp, _, _, _, _, _, _, hworld⟩ := hent
  have hcfg : u.cfg = s.cfg := hucfg.trans hworld.cfg
  have hup : s.reg .r15 - 4#16 + 2#16 = s.reg .r15 - 2#16 := by bv_omega
  have hp1 : u.wordPlain (u.reg .r15) = true := by rw [husp, hsp]; exact wordPlain_of_wordRam hcfg hram4
  have hp2 : u.wordPlain (u.reg .r15 + 2#16) = true := by rw [husp, hsp, hup]; exact wordPlain_of_wordRam hcfg hram2
  rw [← husp] at hw1 hw2 hst1 hst2
  constructor
  · obtain ⟨v, v1, v2, hv, hv1, hv2, hr1, hpc, hr15, hregs, hflags, _, _, hother⟩ := returnFromInterrupt_frame u
      (wordReadable_of_wordPlain u _ hp1) (wordReadable_of_wordPlain u _ hp2)
    obtain ⟨⟨_, hia, _⟩, _, _⟩ := hother
    refine ⟨v, hv, ?_, ?_, ?_, hregs, hflags, hia, fun hne => ?_⟩
    · rw [hr1, hv1 hp1, hw1, hst1]
    · rw [hpc, hv2 hp2, hw2, hst2]
    · rw [hr15, husp, hsp]
      bv_omega
    · exact (canAccept_iff v).mpr ⟨by rwa [hia], by rw [hflags]⟩
  · obtain ⟨v, w, hv, hpc, hw, _, _, hflags, _⟩ := retCompletes u (wordReadable_of_wordPlain u _ hp1)
    exact ⟨v, hv, by rw [hpc, hw hp1, hw1, hst1], hflags⟩

end Sys2Proof

/-! Addition and subtraction: the statements `AddCompletes`, `SubCompletes`, `AddPairIs32BitAdd`, `SubPairIs32BitSub` and
`LogicCompletes`. -/

namespace Sys2Proof.Machine

/-! ### Results and flags (R130 to R134) -/

theorem carry_toNat (c : Bool) : ((BitVec.ofBool c).setWidth 16).toNat = c.toNat := by cases c <;> rfl

theorem addValue_toNat (a b : Word) (c : Bool) : (addValue a b c).toNat = (a.toNat + b.toNat + c.toNat) % 2 ^ 16 := by
  rw [addValue, BitVec.toNat_ofNat]

theorem addValue_eq (a b : Word) (c : Bool) : addValue a b c = a + b + (BitVec.ofBool c).setWidth 16 := by
  apply BitVec.eq_of_toNat_eq
  simp only [addValue_toNat, BitVec.toNat_add, carry_toNat]
  omega

theorem subValue_toNat (a b : Word) (c : Bool) :
    (subValue a b c).toNat = (a.toNat + 2 ^ 16 + 2 ^ 16 - b.toNat - c.toNat) % 2 ^ 16 := by
  have ha := a.isLt
  have hb := b.isLt
  have hc := c.toNat_le
  rw [subValue, BitVec.toNat_ofInt]
  omega

theorem subValue_eq (a b : Word) (c : Bool) : subValue a b c = a - b - (BitVec.ofBool c).setWidth 16 := by
  have hb := b.isLt
  have hc := c.toNat_le
  apply BitVec.eq_of_toNat_eq
  simp only [subValue_toNat, BitVec.toNat_sub, carry_toNat]
  omega

/-- A signed sum does not fit where the operands have one sign and the result the other (R131). -/
theorem addFlags_overflow (a b : Word) (c : Bool) :
    (!fitsSigned (a.toInt + b.toInt + (c.toNat : Int))) = ((a ^^^ addValue a b c) &&& (b ^^^ addValue a b c)).msb := by
  have ha := a.isLt
  have hb := b.isLt
  have hc := c.toNat_le
  rw [BitVec.msb_and, BitVec.msb_xor, BitVec.msb_xor, Bool.eq_iff_iff]
  simp only [BitVec.msb_eq_decide, addValue_toNat, fitsSigned, BitVec.toInt_eq_toNat_cond, Bool.not_eq_true',
    Bool.and_eq_false_iff, decide_eq_false_iff_not, Bool.and_eq_true, bne_iff_ne, ne_eq, decide_eq_decide]
  split <;> split <;> omega

/-- A signed difference does not fit where the operands differ in sign and the result has not that of the first (R133). -/
theorem subFlags_overflow (a b : Word) (c : Bool) :
    (!fitsSigned (a.toInt - b.toInt - (c.toNat : Int))) = ((a ^^^ b) &&& (a ^^^ subValue a b c)).msb := by
  have ha := a.isLt
  have hb := b.isLt
  have hc := c.toNat_le
  rw [BitVec.msb_and, BitVec.msb_xor, BitVec.msb_xor, Bool.eq_iff_iff]
  simp only [BitVec.msb_eq_decide, subValue_toNat, fitsSigned, BitVec.toInt_eq_toNat_cond, Bool.not_eq_true',
    Bool.and_eq_false_iff, decide_eq_false_iff_not, Bool.and_eq_true, bne_iff_ne, ne_eq, decide_eq_decide]
  split <;> split <;> omega

/-- Settles O14: each form is `addTo`, whose result and flags the lemmas above give. -/
theorem addCompletes : Obligations.AddCompletes := by
  intro s rb rc l i b c hi
  have hexec : exec i s = addTo rc b c s := by
    obtain ⟨rfl, rfl, rfl⟩ | ⟨rfl, rfl, rfl⟩ | ⟨rfl, rfl, rfl⟩ := hi <;> rfl
  obtain ⟨hreg, hregs⟩ := regBecomes_setReg s rc (addValue (s.reg rc) b c)
  refine ⟨_, addValue (s.reg rc) b c, hexec, addValue_eq _ _ _, ⟨hreg, hregs⟩, ?_, rfl, fun _ _ => rfl, .refl s⟩
  rw [← addFlags_overflow]
  rfl

/-- Settles O15: each form is `subFrom`, whose result and flags the lemmas above give. -/
theorem subCompletes : Obligations.SubCompletes := by
  intro s rb rc l i b c hi
  have hexec : exec i s = subFrom rc b c s := by
    obtain ⟨rfl, rfl, rfl⟩ | ⟨rfl, rfl, rfl⟩ | ⟨rfl, rfl, rfl⟩ | ⟨rfl, rfl, rfl⟩ := hi <;> rfl
  obtain ⟨hreg, hregs⟩ := regBecomes_setReg s rc (subValue (s.reg rc) b c)
  refine ⟨_, subValue (s.reg rc) b c, hexec, subValue_eq _ _ _, ⟨hreg, hregs⟩, ?_, rfl, fun _ _ => rfl, .refl s⟩
  have hborrow : decide ((s.reg rc).toNat < b.toNat + c.toNat) = decide (((s.reg rc).toNat : Int) - b.toNat - c.toNat < 0) :=
    decide_eq_decide.mpr (by omega)
  rw [← subFlags_overflow, hborrow]
  rfl

/-! ### Pairs of registers -/

/-- The sum of the low words and the sum of the high words with its carry make the 32-bit sum (R131, R132). -/
theorem addValue_pair (ah al bh bl : Word) :
    (addValue ah bh (decide (65536 ≤ al.toNat + bl.toNat + false.toNat)) ++ addValue al bl false : BitVec 32) =
      (ah ++ al) + (bh ++ bl) := by
  apply BitVec.eq_of_toNat_eq
  have h1 := al.isLt
  have h2 := bl.isLt
  cases h : decide (65536 ≤ al.toNat + bl.toNat + false.toNat) <;>
    simp only [decide_eq_true_eq, decide_eq_false_iff_not, toNat_append, BitVec.toNat_add, addValue_toNat, Bool.toNat_true,
      Bool.toNat_false] at h ⊢ <;> omega

/-- The same for the differences and the borrow (R133, R134). -/
theorem subValue_pair (ah al bh bl : Word) :
    (subValue ah bh (decide ((al.toNat : Int) - bl.toNat - false.toNat < 0)) ++ subValue al bl false : BitVec 32) =
      (ah ++ al) - (bh ++ bl) := by
  apply BitVec.eq_of_toNat_eq
  have h1 := al.isLt
  have h2 := bl.isLt
  have h3 := ah.isLt
  have h4 := bh.isLt
  cases h : decide ((al.toNat : Int) - bl.toNat - false.toNat < 0) <;>
    simp only [decide_eq_true_eq, decide_eq_false_iff_not, toNat_append, BitVec.toNat_sub, subValue_toNat, Bool.toNat_true,
      Bool.toNat_false] at h ⊢ <;> omega

/-- Settles O16: the second addition reads the high words as they were, and the carry of the first. -/
theorem addPairIs32BitAdd : Obligations.AddPairIs32BitAdd := by
  rintro s t u sl rl sh rh hl hh hne hsh ⟨⟩ ⟨⟩
  have hcarry := addValue_pair (s.reg rh) (s.reg rl) (s.reg sh) (s.reg sl)
  simp only [State.reg_setFlags, State.reg_setReg_self _ _ _ hh, State.reg_setReg_self _ _ _ hl,
    State.reg_setReg_of_ne _ _ _ _ hne, State.reg_setReg_of_ne _ _ _ _ hne.symm, State.reg_setReg_of_ne _ _ _ _ hsh]
  exact hcarry

/-- Settles O17: the second subtraction reads the high words as they were, and the borrow of the first. -/
theorem subPairIs32BitSub : Obligations.SubPairIs32BitSub := by
  rintro s t u sl rl sh rh hl hh hne hsh ⟨⟩ ⟨⟩
  have hborrow := subValue_pair (s.reg rh) (s.reg rl) (s.reg sh) (s.reg sl)
  simp only [State.reg_setFlags, State.reg_setReg_self _ _ _ hh, State.reg_setReg_self _ _ _ hl,
    State.reg_setReg_of_ne _ _ _ _ hne, State.reg_setReg_of_ne _ _ _ _ hne.symm, State.reg_setReg_of_ne _ _ _ _ hsh]
  exact hborrow

/-- Settles O18: each meaning assigns the value that the statement gives to REG3. -/
theorem logicCompletes : Obligations.LogicCompletes := by
  intro s rb rc i v hi
  apply exists_onlyReg_of_assign
  obtain ⟨rfl, rfl⟩ | ⟨rfl, rfl⟩ | ⟨rfl, rfl⟩ | ⟨rfl, rfl⟩ | ⟨rfl, rfl⟩ := hi
  case inl =>
    rw [← BitVec.xor_allOnes]
    rfl
  case inr.inl =>
    rw [← BitVec.neg_eq_not_add, ← BitVec.zero_sub]
    rfl
  all_goals rfl

end Sys2Proof.Machine

/-! Shifts, rotations, products and quotients: the statements `ShiftsComplete`, `ShiftsIterate`, `RotatesComplete`,
`MulCompletes`, `DivCompletes` and `DivByZeroRaises`. -/

namespace Sys2Proof.Machine

/-! ### Shifts (R140 to R143) -/

theorem ofNat_mul_pow (a : Word) (k : Nat) : BitVec.ofNat 16 (a.toNat * 2 ^ k) = a <<< k := by
  apply BitVec.eq_of_toNat_eq
  rw [BitVec.toNat_ofNat, BitVec.toNat_shiftLeft, Nat.shiftLeft_eq]

theorem ofNat_div_pow (a : Word) (k : Nat) : BitVec.ofNat 16 (a.toNat / 2 ^ k) = a >>> k := by
  apply BitVec.eq_of_toNat_eq
  have hle : a.toNat / 2 ^ k ≤ a.toNat := Nat.div_le_self _ _
  have ha := a.isLt
  rw [BitVec.toNat_ofNat, BitVec.toNat_ushiftRight, Nat.shiftRight_eq_div_pow, Nat.mod_eq_of_lt (by omega)]

theorem sllValue_eq (a : Word) (n : Nat) (cf : Bool) :
    sllValue a n cf = (a <<< n, if n = 0 then cf else (a <<< (n - 1)).msb) := by
  unfold sllValue
  split
  · rename_i h
    simp [h]
  split
  · rename_i h0 h16
    have hlast : 16 - n = 16 - 1 - (n - 1) := by omega
    have hlt : n - 1 < 16 := by omega
    rw [ofNat_mul_pow, BitVec.msb_shiftLeft, BitVec.getMsbD_eq_getLsbD, decide_eq_true hlt, Bool.true_and, hlast]
  · rename_i h0 h16
    rw [BitVec.shiftLeft_eq_zero (by omega), BitVec.shiftLeft_eq_zero (by omega)]
    rfl

theorem srlValue_eq (a : Word) (n : Nat) (cf : Bool) :
    srlValue a n cf = (a >>> n, if n = 0 then cf else (a >>> (n - 1)).getLsbD 0) := by
  unfold srlValue
  split
  · rename_i h
    simp [h]
  split
  · rw [ofNat_div_pow, BitVec.getLsbD_ushiftRight, Nat.add_zero]
  · rename_i h0 h16
    rw [BitVec.ushiftRight_eq_zero (by omega), BitVec.ushiftRight_eq_zero (by omega)]
    rfl

/-- Shifted by 15 places or more, every bit is the sign (R143). -/
theorem sshiftRight_eq_sign (a : Word) {n : Nat} (h : 15 ≤ n) :
    a.sshiftRight n = if a.getLsbD 15 then 0xFFFF#16 else 0#16 := by
  apply BitVec.eq_of_getLsbD_eq
  intro j hj
  have hbits : (0xFFFF#16).getLsbD j = true := by
    rw [show (0xFFFF#16) = BitVec.allOnes 16 from rfl, BitVec.getLsbD_allOnes]
    exact decide_eq_true hj
  have hsign : (a.sshiftRight n).getLsbD j = a.getLsbD 15 := by
    rw [BitVec.getLsbD_sshiftRight, BitVec.msb_eq_getLsbD_last]
    by_cases hn : n + j < 16
    · have h15 : n + j = 15 := by omega
      simp [h15, hj]
    · simp [hn, hj]
  rw [hsign]
  cases a.getLsbD 15
  · simp
  · exact hbits.symm

theorem sraValue_eq (a : Word) (n : Nat) (cf : Bool) :
    sraValue a n cf = (a.sshiftRight n, if n = 0 then cf else (a.sshiftRight (n - 1)).getLsbD 0) := by
  unfold sraValue
  split
  · rename_i h
    simp [h]
  split
  · rename_i h0 h15
    have hvalue : BitVec.ofInt 16 (a.toInt / (2 ^ n : Int)) = a.sshiftRight n := by
      rw [BitVec.sshiftRight, Int.shiftRight_eq_div_pow]
      rfl
    have hlt : n - 1 + 0 < 16 := by omega
    have hout : a.getLsbD (n - 1) = (a.sshiftRight (n - 1)).getLsbD 0 := by
      rw [BitVec.getLsbD_sshiftRight, if_pos hlt]
      rfl
    rw [hvalue, hout]
  · rename_i h0 h15
    rw [sshiftRight_eq_sign a (by omega), sshiftRight_eq_sign a (by omega)]
    cases a.getLsbD 15 <;> rfl

/-- Settles O20: shifts by numbers add up. -/
theorem shiftsIterate : Obligations.ShiftsIterate := by
  intro a n cf
  simp only [sllValue_eq, srlValue_eq, sraValue_eq, BitVec.shiftLeft_add, BitVec.shiftRight_add, BitVec.sshiftRight_add]
  simp

/-- What a shift of a register answers (R140). -/
theorem shiftBy_frame {f : Word → Nat → Bool → Word × Bool} {s : State} {rc : Reg} {b v : Word} {out : Bool}
    (hf : f (s.reg rc) b.toNat s.flags.carry = (v, if b.toNat = 0 then s.flags.carry else out)) :
    ∃ t, shiftBy f rc b s = .next t ∧ RegBecomes s t rc v ∧
      t.flags = { s.flags with carry := if b.toNat = 0 then s.flags.carry else out } ∧
      t.pc = s.pc ∧ SameMem s t [] ∧ SameOther s t := by
  refine ⟨_, rfl, ?_, ?_, rfl, fun _ _ => rfl, .refl s⟩
  · rw [hf]
    exact regBecomes_setReg s rc v
  · rw [hf]
    rfl

/-- Settles O19: each form is a shift of REG3 by the operand. -/
theorem shiftsComplete : Obligations.ShiftsComplete := by
  intro s rb rc l n i v out hi
  obtain ⟨⟨rfl, rfl⟩ | ⟨rfl, rfl⟩, rfl, rfl⟩ | ⟨⟨rfl, rfl⟩ | ⟨rfl, rfl⟩, rfl, rfl⟩ | ⟨⟨rfl, rfl⟩ | ⟨rfl, rfl⟩, rfl, rfl⟩ := hi
  · exact shiftBy_frame (sllValue_eq _ _ _)
  · exact shiftBy_frame (sllValue_eq _ _ _)
  · exact shiftBy_frame (srlValue_eq _ _ _)
  · exact shiftBy_frame (srlValue_eq _ _ _)
  · exact shiftBy_frame (sraValue_eq _ _ _)
  · exact shiftBy_frame (sraValue_eq _ _ _)

/-! ### Rotations (R144 to R146) -/

theorem rotlValue_getLsbD (a : Word) (n : Nat) {j : Nat} (hj : j < 16) :
    (rotlValue a n).getLsbD j = a.getLsbD ((j + 16 - n % 16) % 16) := by
  have hk : n % 16 < 16 := Nat.mod_lt _ (by decide)
  simp only [rotlValue, ofNat_mul_pow, ofNat_div_pow, BitVec.getLsbD_or, BitVec.getLsbD_shiftLeft, BitVec.getLsbD_ushiftRight]
  by_cases h : j < n % 16
  · have hidx : (j + 16 - n % 16) % 16 = 16 - n % 16 + j := by omega
    simp [hj, h, hidx]
  · have hidx : (j + 16 - n % 16) % 16 = j - n % 16 := by omega
    have hout : 16 ≤ 16 - n % 16 + j := by omega
    simp [hj, h, hidx, BitVec.getLsbD_of_ge a _ hout]

theorem rotrValue_getLsbD (a : Word) (n : Nat) {j : Nat} (hj : j < 16) :
    (rotrValue a n).getLsbD j = a.getLsbD ((j + n % 16) % 16) := by
  have hk : n % 16 < 16 := Nat.mod_lt _ (by decide)
  simp only [rotrValue, ofNat_mul_pow, ofNat_div_pow, BitVec.getLsbD_or, BitVec.getLsbD_shiftLeft, BitVec.getLsbD_ushiftRight]
  by_cases h : j < 16 - n % 16
  · have hidx : (j + n % 16) % 16 = n % 16 + j := by omega
    simp [hj, h, hidx]
  · have hidx : (j + n % 16) % 16 = j - (16 - n % 16) := by omega
    have hout : 16 ≤ n % 16 + j := by omega
    simp [hj, h, hidx, BitVec.getLsbD_of_ge a _ hout]

/-- Settles O21: each form assigns the rotated value to REG3. -/
theorem rotatesComplete : Obligations.RotatesComplete := by
  intro s rb rc l b i
  refine ⟨fun hi => ?_, fun hi => ?_⟩
  · have hexec : exec i s = assign rc (rotlValue (s.reg rc) b.toNat) s := by obtain ⟨rfl, rfl⟩ | ⟨rfl, rfl⟩ := hi <;> rfl
    obtain ⟨t, ht, honly⟩ := exists_onlyReg_of_assign hexec
    exact ⟨t, _, ht, honly, fun j => rotlValue_getLsbD _ _⟩
  · have hexec : exec i s = assign rc (rotrValue (s.reg rc) b.toNat) s := by obtain ⟨rfl, rfl⟩ | ⟨rfl, rfl⟩ := hi <;> rfl
    obtain ⟨t, ht, honly⟩ := exists_onlyReg_of_assign hexec
    exact ⟨t, _, ht, honly, fun j => rotrValue_getLsbD _ _⟩

/-! ### Products (R150) -/

theorem product_eq (signed : Bool) (a b : Word) :
    product signed a b = if signed then a.signExtend 32 * b.signExtend 32 else a.setWidth 32 * b.setWidth 32 := by
  cases signed with
  | true => rw [product, BitVec.ofInt_mul]; rfl
  | false =>
    rw [product, if_neg Bool.false_ne_true, BitVec.ofNat_mul, BitVec.ofNat_toNat, BitVec.ofNat_toNat]

/-- What an instruction that leaves a 32-bit value in Y and REG3 leaves alone. -/
theorem regBecomes_pair (s : State) (rc : Reg) (p : BitVec 32) :
    RegBecomes s ((s.setY (highHalf p)).setReg rc (lowHalf p)) rc (p.extractLsb' 0 16) :=
  regBecomes_setReg (s.setY (highHalf p)) rc (lowHalf p)

/-- Settles O22: each form leaves the two halves of the product. -/
theorem mulCompletes : Obligations.MulCompletes := by
  intro s rb rc l i b p hi hp
  have hexec : exec i s = mulBy rc b s := by obtain ⟨rfl, rfl⟩ | ⟨rfl, rfl⟩ := hi <;> rfl
  rw [← product_eq] at hp
  subst hp
  exact ⟨_, hexec, rfl, regBecomes_pair s rc _, rfl, rfl, rfl, rfl, fun _ _ => rfl, rfl, .refl s⟩

/-! ### Quotients (R152, R155) -/

/-- The unsigned quotient is the floor. -/
theorem quotient_unsigned (n : BitVec 32) (b : Word) (hb : b ≠ 0#16) :
    (quotient false n b).toNat * b.toNat ≤ n.toNat ∧ n.toNat < ((quotient false n b).toNat + 1) * b.toNat := by
  have hpos : 0 < b.toNat := Nat.pos_of_ne_zero fun h => hb (BitVec.eq_of_toNat_eq h)
  have hq : (quotient false n b).toNat = n.toNat / b.toNat := by
    rw [quotient, BitVec.toNat_ofNat]
    exact Nat.mod_eq_of_lt (lt_of_le_of_lt (Nat.div_le_self _ _) n.isLt)
  rw [hq]
  exact ⟨Nat.div_mul_le_self _ _, by rw [Nat.add_one_mul]; exact Nat.lt_div_mul_add hpos⟩

/-- The remainder of the floor quotient lies between 0 and the divisor. -/
theorem fdiv_remainder (n : Int) {b : Int} (hb : b ≠ 0) :
    (0 ≤ n - n.fdiv b * b ∧ n - n.fdiv b * b < b) ∨ (b < n - n.fdiv b * b ∧ n - n.fdiv b * b ≤ 0) := by
  obtain hpos | hneg : 0 < b ∨ b < 0 := by omega
  · rw [Int.fdiv_eq_ediv_of_nonneg n hpos.le]
    have hdiv := Int.ediv_mul_add_emod n b
    have hnn := Int.emod_nonneg n hb
    have hlt := Int.emod_lt_of_pos n hpos
    omega
  · rw [← Int.neg_fdiv_neg, Int.fdiv_eq_ediv_of_nonneg (-n) (by omega)]
    have hdiv := Int.ediv_mul_add_emod (-n) (-b)
    have hnn := Int.emod_nonneg (-n) (neg_ne_zero.mpr hb)
    have hlt := Int.emod_lt_of_pos (-n) (neg_pos.mpr hneg)
    rw [mul_neg] at hdiv
    omega

/-- A divisor other than 1 and -1 leaves the quotient of a 32-bit dividend well inside 32 bits; by those two it is exact. -/
theorem fdiv_bounds {n b : Int} (hn : -2147483648 ≤ n ∧ n < 2147483648) (hb : b ≠ 0) (hno : ¬ (n = -2147483648 ∧ b = -1)) :
    (-2147483648 ≤ n.fdiv b ∧ n.fdiv b < 2147483648) ∧ (n.fdiv b * b ≠ n → n.fdiv b + 1 < 2147483648) := by
  have hr := fdiv_remainder n hb
  generalize n.fdiv b = q at hr ⊢
  obtain ⟨hlow, hhigh⟩ := hn
  obtain rfl | rfl | hbig | hsmall : b = 1 ∨ b = -1 ∨ 2 ≤ b ∨ b ≤ -2 := by omega
  · omega
  · omega
  · obtain ⟨h0, hlt⟩ : 0 ≤ n - q * b ∧ n - q * b < b := by omega
    have h1 : -1500000000 ≤ q := by by_contra hq; nlinarith
    have h2 : q ≤ 1500000000 := by by_contra hq; nlinarith
    omega
  · obtain ⟨hlt, h0⟩ : b < n - q * b ∧ n - q * b ≤ 0 := by omega
    have h1 : -1500000000 ≤ q := by by_contra hq; nlinarith
    have h2 : q ≤ 1500000000 := by by_contra hq; nlinarith
    omega

theorem toInt_ofInt_32 {v : Int} (h1 : -2147483648 ≤ v) (h2 : v < 2147483648) : (BitVec.ofInt 32 v).toInt = v :=
  BitVec.toInt_ofInt_eq_self (by decide) h1 h2

/-- The signed quotient is a neighbour of the exact one, and that one where the divisor divides. -/
theorem signedQuotient_near (n : BitVec 32) (b : Word) (hb : b ≠ 0#16) (hno : ¬ (n.toInt = -2147483648 ∧ b.toInt = -1)) :
    (n.toInt - (signedQuotient n b).toInt * b.toInt).natAbs < b.toInt.natAbs := by
  have hb0 : b.toInt ≠ 0 := fun h => hb (BitVec.eq_of_toInt_eq h)
  have hr := fdiv_remainder n.toInt hb0
  obtain ⟨⟨hlow, hhigh⟩, hup⟩ := fdiv_bounds ⟨BitVec.le_toInt n, BitVec.toInt_lt⟩ hb0 hno
  simp only [signedQuotient, if_neg hno]
  split
  · rename_i hexact
    rw [toInt_ofInt_32 hlow hhigh]
    omega
  · rename_i hexact
    split
    · rw [toInt_ofInt_32 (by omega) (hup hexact), Int.add_mul, Int.one_mul]
      omega
    · rw [toInt_ofInt_32 hlow hhigh]
      omega

/-- Settles O23: each form leaves the two halves of the quotient. -/
theorem divCompletes : Obligations.DivCompletes := by
  intro s rb rc l i b n hi hb hn
  subst hn
  have hexec : exec i s = divBy rc b s := by obtain ⟨rfl, rfl⟩ | ⟨rfl, rfl⟩ := hi <;> rfl
  rw [divBy, if_neg hb] at hexec
  refine ⟨_, quotient s.cfg.muldivSigned (s.y ++ s.reg rc) b, hexec, rfl, regBecomes_pair s rc _, fun hu => ?_, fun hs hno => ?_,
    rfl, rfl, rfl, rfl, fun _ _ => rfl, rfl, .refl s⟩
  · rw [hu]
    exact quotient_unsigned _ b hb
  · rw [hs]
    exact signedQuotient_near _ b hb hno

/-- Settles O24: with divisor 0 both forms are the division error. -/
theorem divByZeroRaises : Obligations.DivByZeroRaises := by
  intro s rb rc l i hi
  have hexec : exec i s = divisionError s := by
    obtain ⟨rfl, hb⟩ | ⟨rfl, hb⟩ := hi
    · exact if_pos hb
    · exact if_pos hb
  rw [hexec, divisionError]
  refine ⟨fun hno => if_neg ?_, fun hia hif hroom => ?_⟩
  · rw [canAccept_iff]
    rintro ⟨hia, hif⟩
    simp [hia, hif] at hno
  · rw [if_pos ((canAccept_iff s).mpr ⟨hia, hif⟩)]
    exact interruptEntry_entered (s.setDivError true) 0#16 hroom

end Sys2Proof.Machine

/-! The bit conditionals, the special instructions, INT, INP and OUT, and the words of the examples: the statements
`BitConditionals`, `GetflagsCompletes`, `SpecialCompletes`, `SoftwareInterruptCompletes`, `IoCompletes` and `DecodeWords`. -/

namespace Sys2Proof.Machine

/-- Two words have a common 1 bit where their conjunction is not 0 (R169). -/
theorem and_ne_zero_iff (a b : Word) : a &&& b ≠ 0#16 ↔ ∃ j, a.getLsbD j = true ∧ b.getLsbD j = true := by
  constructor
  · intro h
    by_contra hno
    refine h (BitVec.eq_of_getLsbD_eq fun j _ => ?_)
    rw [BitVec.getLsbD_and, BitVec.getLsbD_zero, Bool.and_eq_false_imp]
    exact fun ha => Bool.eq_false_iff.mpr fun hb => hno ⟨j, ha, hb⟩
  · rintro ⟨j, ha, hb⟩ h
    have hj : (a &&& b).getLsbD j = false := by rw [h, BitVec.getLsbD_zero]
    rw [BitVec.getLsbD_and, ha, hb] at hj
    cases hj

/-- Settles O27: the later lines of 0x52 and 0x53, and conditionals on the conjunction of the operands. -/
theorem bitConditionals : Obligations.BitConditionals := by
  refine ⟨fun c rb rc hc => ⟨?_, ?_⟩, fun s rb rc => ?_⟩
  · exact decodeFirst_2P rfl (by simp [decode2P, clashPick, hc]) nofun
  · exact decodeFirst_2P rfl (by simp [decode2P, clashPick, hc]) nofun
  · have hset : RunsNextIf (s.reg rc &&& s.reg rb ≠ 0#16) (.bbits rb rc) s := runsNextIf_ne rfl
    have hclear : RunsNextIf (s.reg rc &&& s.reg rb = 0#16) (.bclear rb rc) s := runsNextIf_eq rfl
    refine ⟨fun h => ?_, fun h => ?_⟩
    · have hne := (and_ne_zero_iff _ _).mpr h
      exact ⟨hset.1 hne, hclear.2 hne⟩
    · have heq : s.reg rc &&& s.reg rb = 0#16 := by
        by_contra hne
        obtain ⟨j, ha, hb⟩ := (and_ne_zero_iff _ _).mp hne
        simp [h j ha] at hb
      exact ⟨hset.2 (not_not_intro heq), hclear.1 heq⟩

/-- Settles O39: the first line of 0x207, and FLAGS as a number. -/
theorem getflagsCompletes : Obligations.GetflagsCompletes := by
  refine ⟨fun c rc hc => decodeFirst_1P rfl (by simp [decode1P, clashPick, hc]) nofun, fun s rc => ?_⟩
  obtain ⟨t, ht, honly⟩ := exists_onlyReg_of_assign (s := s) (i := .getflags rc) rfl
  exact ⟨t, _, ht, honly, flagsWord_toNat s.flags⟩

/-- Settles O40: GETPC assigns PC as `GETPC_OFFSET` says, and the others write their one field. -/
theorem specialCompletes : Obligations.SpecialCompletes := by
  intro s rc l
  have hexec : exec (.getpc rc) s = assign rc (getpcValue s) s := rfl
  refine ⟨fun ho => exists_onlyReg_of_assign ?_, fun ho => exists_onlyReg_of_assign ?_, rfl, rfl, rfl⟩
  · rw [hexec, getpcValue, ho]
  · rw [hexec, getpcValue, ho]

/-- Settles O42: both forms are the software interrupt with the message of the operand. -/
theorem softwareInterruptCompletes : Obligations.SoftwareInterruptCompletes := by
  intro s rc l i m hi
  have hexec : exec i s = softwareInterrupt m s := by obtain ⟨rfl, rfl⟩ | ⟨rfl, rfl⟩ := hi <;> rfl
  rw [hexec, softwareInterrupt]
  refine ⟨fun hia hif hroom => ?_, fun hno => if_neg ?_⟩
  · rw [if_pos ((canAccept_iff s).mpr ⟨hia, hif⟩)]
    exact interruptEntry_entered s m hroom
  · rw [canAccept_iff]
    rintro ⟨hia, hif⟩
    simp [hia, hif] at hno

/-! ### The IO space (48_io.md) -/

/-- A datum of the IO space under either width (R60). -/
theorem ioDatum_eq {c : Config} {widen : Word → Word} (h16 : c.ioDataWidth = .sixteen → ∀ v, widen v = v)
    (h8 : c.ioDataWidth = .eight → ∀ v, widen v = v &&& 0x00FF#16) (v : Word) : ioDatum c v = widen v := by
  unfold ioDatum
  split
  · rename_i h
    exact (h16 h v).symm
  · rename_i h
    rw [h8 h v]
    apply BitVec.eq_of_getLsbD_eq
    intro j hj
    have hmask : (0x00FF#16).getLsbD j = decide (j < 8) := by
      revert j
      decide
    rw [BitVec.getLsbD_append, BitVec.getLsbD_and, hmask]
    by_cases h : j < 8 <;> simp [h]

theorem ioRead_value (port : Byte) (s : State) :
    (ioRead port s).1 = ioDatum s.cfg (s.ioInputs.headD (Config.freeIoAnswer s.boundary port)) := by
  unfold ioRead
  split <;> rename_i h <;> rw [h] <;> rfl

/-- Settles O48: INP writes what the IO space answers, OUT adds one event. -/
theorem ioCompletes : Obligations.IoCompletes := by
  intro s rb rc l i b widen h16 h8
  refine ⟨fun hi => ?_, fun hi => ?_⟩
  · have hexec : exec i s = inpFrom b rc s := by obtain ⟨rfl, rfl⟩ | ⟨rfl, rfl⟩ := hi <;> rfl
    have hvalue : (ioRead (portOf b) s).1 = widen (s.ioInputs.headD (Config.freeIoAnswer s.boundary (b.extractLsb' 0 8))) := by
      rw [ioRead_value, ioDatum_eq h16 h8]
      rfl
    rw [hexec, inpFrom_eq, hvalue]
    exact ⟨_, rfl, regBecomes_setReg s rc _, rfl, rfl, rfl, fun _ _ => rfl, ⟨rfl, rfl, rfl⟩, rfl, rfl, rfl, rfl⟩
  · have hexec : exec i s = outTo b rc s := by obtain ⟨rfl, rfl⟩ | ⟨rfl, rfl⟩ := hi <;> rfl
    rw [hexec, outTo, ioWrite, ioDatum_eq h16 h8]
    rfl

/-- Settles O50, word by word. -/
theorem decodeWords : Obligations.DecodeWords := by
  refine ⟨?_, ?_, ?_, ?_, ?_, ?_, ?_, ?_, ?_, ?_, ?_⟩ <;> rfl

end Sys2Proof.Machine
